-- ==== Sys2Proof/Word.lean ====
section
/-! DEFINITION. The words of the machine: the widths of 00_scope.md R7 and R8, and four 32-bit words side by side. -/

namespace Sys2Proof

/-- A chaining, working, message or command word, 32 bits, unsigned (R7, R9, R72). -/
abbrev Word := BitVec 32

/-- A byte (R12). -/
abbrev Byte := BitVec 8

/-- The bit-length counter's width, `LBITS = 64` (R8, R23). -/
abbrev Counter := BitVec 64

/-- The data operand, `DATA[511:0]` (R51, R77). -/
abbrev Operand := BitVec 512

/-- The digest port, 128 bits (R81). -/
abbrev Digest := BitVec 128

/-- Four words, indexed as the spec indexes `H[0..3]`: `A B C D` of the chaining state (R21), or `a b c d` of the working
registers (R27), in this order. -/
abbrev Quad := Vector Word 4

end Sys2Proof
end

