-- ==== Sys2Proof/Config.lean ====
section
/-! DEFINITION. What an implementation fixes and the spec leaves open: the latencies of 70_reset_and_hazards.md R240.
Each is an opaque number with no value that a proof could see (log 5): a latency is that number plus one, so that it is at least 1. -/

namespace Sys2Proof

/-- Open: `LAT_INIT - 1` (R240). -/
opaque Config.latInitExtra : Nat

/-- Open: `LAT_ABSORB - 1` (R240). -/
opaque Config.latAbsorbExtra : Nat

/-- Open: `LAT_FINAL1 - 1` (R240). -/
opaque Config.latFinal1Extra : Nat

/-- Open: `LAT_FINAL2 - 1` (R240). -/
opaque Config.latFinal2Extra : Nat

/-- Open: `LAT_ERR - 1` (R240). -/
opaque Config.latErrExtra : Nat

/-- `LAT_INIT`, an integer ≥ 1 (R240). -/
def Config.latInit : Nat := Config.latInitExtra + 1

/-- `LAT_ABSORB`, an integer ≥ 1 (R240). -/
def Config.latAbsorb : Nat := Config.latAbsorbExtra + 1

/-- `LAT_FINAL1`, an integer ≥ 1 (R240). -/
def Config.latFinal1 : Nat := Config.latFinal1Extra + 1

/-- `LAT_FINAL2`, an integer ≥ 1 (R240). -/
def Config.latFinal2 : Nat := Config.latFinal2Extra + 1

/-- `LAT_ERR`, an integer ≥ 1 (R240). -/
def Config.latErr : Nat := Config.latErrExtra + 1

end Sys2Proof
end

