-- ==== Sys2Proof/Syntax.lean ====
section
/-! DEFINITION. The instructions: one constructor per row of opcode_table.json, and the four round groups. -/

namespace Sys2Proof

/-- The round groups of R82 and R104: the 16 rounds that share one nonlinear function. -/
inductive Group where
  | f | g | h | i
deriving DecidableEq, Repr

/-- The rows of opcode_table.json. A CHUNK carries its length field `N = cmd[10:4]` (R72); its data bytes are the
captured data operand (R13, R52), not part of the command word. A round carries `i[3:0]`, its position in its group (R82). -/
inductive Instr where
  /-- Row INIT (R151). -/
  | init
  /-- Row CHUNK.ABSORB (R155). -/
  | chunkAbsorb
  /-- Row CHUNK.FINAL1 (R156), `0 ≤ n ≤ 55`. -/
  | chunkFinal1 (n : BitVec 7)
  /-- Row CHUNK.FINAL2 (R157), `56 ≤ n ≤ 63`. -/
  | chunkFinal2 (n : BitVec 7)
  /-- Row ABORT (R162). -/
  | abort
  /-- Row CHUNK.BADLEN (R203), `65 ≤ n ≤ 127`. -/
  | chunkBadlen (n : BitVec 7)
  /-- Row ROUND_F (R110), rounds 0..15. -/
  | roundF (pos : BitVec 4)
  /-- Row ROUND_G (R111), rounds 16..31. -/
  | roundG (pos : BitVec 4)
  /-- Row ROUND_H (R112), rounds 32..47. -/
  | roundH (pos : BitVec 4)
  /-- Row ROUND_I (R113), rounds 48..63. -/
  | roundI (pos : BitVec 4)
deriving DecidableEq, Repr

/-- The micro-operations of R82: the rows that no host command stands for. -/
def Instr.isRound : Instr → Bool
  | .init => false
  | .chunkAbsorb => false
  | .chunkFinal1 _ => false
  | .chunkFinal2 _ => false
  | .abort => false
  | .chunkBadlen _ => false
  | .roundF _ => true
  | .roundG _ => true
  | .roundH _ => true
  | .roundI _ => true

end Sys2Proof
end

