-- ==== Sys2Proof/WellFormed.lean ====
section
/-! DEFINITION. Well-formed instructions: the chunk length lies in the range of its row (30_encoding.md R74). -/

namespace Sys2Proof

/-- `N` selects the CHUNK row (R74): 0..55 FINAL1, 56..63 FINAL2, 65..127 BADLEN. The other rows have no operand that could be out of range. -/
def Instr.wellFormed : Instr → Bool
  | .init => true
  | .chunkAbsorb => true
  | .chunkFinal1 n => n.toNat ≤ 55
  | .chunkFinal2 n => 56 ≤ n.toNat && n.toNat ≤ 63
  | .abort => true
  | .chunkBadlen n => 65 ≤ n.toNat
  | .roundF _ => true
  | .roundG _ => true
  | .roundH _ => true
  | .roundI _ => true

end Sys2Proof
end

