-- ==== Sys2Proof/Decode.lean ====
section
/-! DEFINITION. The decoder and the encoder: the command word (30_encoding.md R72 to R76) and the 6-bit round index (R82). -/

namespace Sys2Proof

/-- Why a command word is illegal (R84). -/
inductive Reject where
  /-- `OP` is 0x0 or 0x4..0xF (R73). -/
  | reservedOp
  /-- A bit of `RSVD = w[31:11]` is set (R75). -/
  | reservedBits
  /-- INIT or ABORT with `N ≠ 0` (R75). -/
  | lengthNotZero
deriving DecidableEq, Repr

/-- An encoded instruction, in one of the two formats of opcode_table.json: CMD (R72) or ROUND (R82). -/
inductive Code where
  | command (w : Word)
  | round (i : BitVec 6)
deriving DecidableEq, Repr

/-- `OP = w[3:0]` (R72). -/
def opField (w : Word) : BitVec 4 := w.extractLsb' 0 4

/-- `N = w[10:4]` (R72). -/
def lengthField (w : Word) : BitVec 7 := w.extractLsb' 4 7

/-- `RSVD = w[31:11]` (R72). -/
def reservedField (w : Word) : BitVec 21 := w.extractLsb' 11 21

/-- The legality predicate, written as R76 writes it. -/
def legal (w : Word) : Bool :=
  w == 0x00000001#32 || w == 0x00000003#32 || (opField w == 0x2#4 && reservedField w == 0#21)

/-- The CHUNK row that `N` selects (R74). -/
def chunkOfLength (n : BitVec 7) : Instr :=
  if n.toNat = 64 then .chunkAbsorb
  else if n.toNat ≤ 55 then .chunkFinal1 n
  else if n.toNat ≤ 63 then .chunkFinal2 n
  else .chunkBadlen n

/-- A command word, decoded by R72 to R76; an illegal word is rejected by name (R84). -/
def decodeCommand (w : Word) : Except Reject Instr :=
  if reservedField w ≠ 0#21 then .error .reservedBits
  else if opField w = 0x1#4 then
    if lengthField w = 0#7 then .ok .init else .error .lengthNotZero
  else if opField w = 0x2#4 then .ok (chunkOfLength (lengthField w))
  else if opField w = 0x3#4 then
    if lengthField w = 0#7 then .ok .abort else .error .lengthNotZero
  else .error .reservedOp

/-- `i[5:4]` as a round group (R82). -/
def groupOf (i : BitVec 6) : Group :=
  if i.extractLsb' 4 2 = 0#2 then .f
  else if i.extractLsb' 4 2 = 1#2 then .g
  else if i.extractLsb' 4 2 = 2#2 then .h
  else .i

/-- The round group's code, `i[5:4]` (R82). -/
def groupCode : Group → BitVec 2
  | .f => 0
  | .g => 1
  | .h => 2
  | .i => 3

/-- The 6-bit round index of position `pos` in group `grp`: `{i[5:4], i[3:0]}` (R82). -/
def roundIndex (grp : Group) (pos : BitVec 4) : BitVec 6 := groupCode grp ++ pos

/-- A round index, decoded by `i[5:4]` (R82): every index is a round. -/
def decodeRound (i : BitVec 6) : Instr :=
  match groupOf i with
  | .f => .roundF (i.extractLsb' 0 4)
  | .g => .roundG (i.extractLsb' 0 4)
  | .h => .roundH (i.extractLsb' 0 4)
  | .i => .roundI (i.extractLsb' 0 4)

/-- The decoder, total over both formats. -/
def decode : Code → Except Reject Instr
  | .command w => decodeCommand w
  | .round i => .ok (decodeRound i)

/-- A command word from its fields, `RSVD = 0` (R72). -/
def commandWord (n : BitVec 7) (op : BitVec 4) : Word := 0#21 ++ n ++ op

/-- The encoder, written from the table's rows: R87 and R151, R155 to R157, R162, R203 for the commands, R82 for the rounds. -/
def encode : Instr → Code
  | .init => .command (commandWord 0#7 0x1#4)
  | .chunkAbsorb => .command (commandWord 64#7 0x2#4)
  | .chunkFinal1 n => .command (commandWord n 0x2#4)
  | .chunkFinal2 n => .command (commandWord n 0x2#4)
  | .abort => .command (commandWord 0#7 0x3#4)
  | .chunkBadlen n => .command (commandWord n 0x2#4)
  | .roundF pos => .round (roundIndex .f pos)
  | .roundG pos => .round (roundIndex .g pos)
  | .roundH pos => .round (roundIndex .h pos)
  | .roundI pos => .round (roundIndex .i pos)

/-- The code that a row of opcode_table.json numbers: a row of at most 8 bits has format ROUND (6 bits in one byte),
a longer one is a 32-bit command word. DEDUCED, safe (log 16): the table has no other width. -/
def codeOfTableWord (nbits w : Nat) : Option Code :=
  if nbits ≤ 8 then
    if w < 64 then some (.round (BitVec.ofNat 6 w)) else none
  else if w < 2 ^ 32 then some (.command (BitVec.ofNat 32 w)) else none

/-- The instruction the decoder reads from a word of opcode_table.json's numbering. -/
def decodeTableWord (nbits w : Nat) : Option Instr :=
  match codeOfTableWord nbits w with
  | none => none
  | some c =>
    match decode c with
    | .ok i => some i
    | .error _ => none

end Sys2Proof
end

