-- ==== Sys2Proof/Machine/Tables.lean ====
section
/-! DEFINITION. The constant state: IV, K and S (10_state.md R22, R32, R33; 41_round_functions.md R106, R108). The values of K and S
are the spec's, which marks them as general knowledge: PRESUMED, unsafe (log 11). -/

namespace Sys2Proof.Machine

/-- `IV[0..3]` (R22). -/
def iv : Quad := #v[0x67452301#32, 0xefcdab89#32, 0x98badcfe#32, 0x10325476#32]

/-- The sixteen additive constants of a round group, in round order (R106). -/
def kRow : Group → List Word
  | .f => [0xd76aa478#32, 0xe8c7b756#32, 0x242070db#32, 0xc1bdceee#32,
           0xf57c0faf#32, 0x4787c62a#32, 0xa8304613#32, 0xfd469501#32,
           0x698098d8#32, 0x8b44f7af#32, 0xffff5bb1#32, 0x895cd7be#32,
           0x6b901122#32, 0xfd987193#32, 0xa679438e#32, 0x49b40821#32]
  | .g => [0xf61e2562#32, 0xc040b340#32, 0x265e5a51#32, 0xe9b6c7aa#32,
           0xd62f105d#32, 0x02441453#32, 0xd8a1e681#32, 0xe7d3fbc8#32,
           0x21e1cde6#32, 0xc33707d6#32, 0xf4d50d87#32, 0x455a14ed#32,
           0xa9e3e905#32, 0xfcefa3f8#32, 0x676f02d9#32, 0x8d2a4c8a#32]
  | .h => [0xfffa3942#32, 0x8771f681#32, 0x6d9d6122#32, 0xfde5380c#32,
           0xa4beea44#32, 0x4bdecfa9#32, 0xf6bb4b60#32, 0xbebfbc70#32,
           0x289b7ec6#32, 0xeaa127fa#32, 0xd4ef3085#32, 0x04881d05#32,
           0xd9d4d039#32, 0xe6db99e5#32, 0x1fa27cf8#32, 0xc4ac5665#32]
  | .i => [0xf4292244#32, 0x432aff97#32, 0xab9423a7#32, 0xfc93a039#32,
           0x655b59c3#32, 0x8f0ccc92#32, 0xffeff47d#32, 0x85845dd1#32,
           0x6fa87e4f#32, 0xfe2ce6e0#32, 0xa3014314#32, 0x4e0811a1#32,
           0xf7537e82#32, 0xbd3af235#32, 0x2ad7d2bb#32, 0xeb86d391#32]

/-- The four rotation amounts that a round group cycles through (R106, R108). -/
def sRow : Group → List (BitVec 5)
  | .f => [7#5, 12#5, 17#5, 22#5]
  | .g => [5#5, 9#5, 14#5, 20#5]
  | .h => [4#5, 11#5, 16#5, 23#5]
  | .i => [6#5, 10#5, 15#5, 21#5]

/-- `Krom(i)`, the additive constant of round `i` (R50, R106). -/
def krom (i : BitVec 6) : Word := (kRow (groupOf i)).getD (i.toNat % 16) 0

/-- `Srom(i)`, the rotation amount of round `i` (R50, R106): it depends only on `i[5:4]` and `i[1:0]` (R108). -/
def srom (i : BitVec 6) : BitVec 5 := (sRow (groupOf i)).getD (i.toNat % 4) 0

end Sys2Proof.Machine
end

