-- ==== Sys2Proof/Machine/State.lean ====
section
/-! DEFINITION. The state of one engine (10_state.md), with the host's next actions as plain data, the reasons a step can stop, and reset. -/

namespace Sys2Proof.Machine

/-- `PHASE` (R24): its three legal values. The value 3 is never held, so it has no constructor (93_implementation_defined.md). -/
inductive Phase where
  | absorbing
  | done
  | error
deriving DecidableEq, Repr

/-- `ERR` (R25): the codes of R201. The codes 5, 6 and 7 are never produced, so they have no constructor. -/
inductive ErrCode where
  /-- 0, NONE. -/
  | noError
  /-- 1, ILLEGAL_COMMAND (R202). -/
  | illegalCommand
  /-- 2, BAD_LENGTH (R203). -/
  | badLength
  /-- 3, SEQUENCE (R204). -/
  | sequence
  /-- 4, SOURCE_ABORT (R205). -/
  | sourceAbort
deriving DecidableEq, Repr

/-- Where a command in progress stands, between the accepting edge and the edge where BUSY falls. The spec implies it
(R30, R34, R132 to R135, R157); the inductive is the model's own. DESIGN CHOICE, safe (log 4): no output shows it. -/
inductive Stage where
  /-- No command in progress. -/
  | idle
  /-- The 64 rounds of the first of two blocks (CHUNK.FINAL2, R157). -/
  | firstRounds
  /-- The chaining addition of the first of two blocks is due (R135). -/
  | firstChain
  /-- Between the two compressions: the second block is to be loaded (R30, R157). -/
  | between
  /-- The 64 rounds of the only block, or of the second one. -/
  | lastRounds
  /-- The chaining addition of the only block, or of the second one, is due (R135). -/
  | lastChain
  /-- All work on H and L is done; BUSY falls when the latency has passed (R71). -/
  | settled
deriving DecidableEq, Repr

/-- What the host does next at the engine's ports (R70). The host is an agent (R5); its actions stand in State as a
list. DESIGN CHOICE, safe (log 2). -/
inductive Input where
  /-- The host presents `cmd` and `data` with `cmd_valid = 1` until the engine accepts them, and reads no output before
  BUSY is 0 again: one transaction (R6, R71, R150). -/
  | command (cmd : Word) (data : Operand)
  /-- One rising edge of `clk` with these values of `rst`, `cmd_valid`, `cmd` and `data` (R70, R71, R230). -/
  | edge (rst : Bool) (valid : Bool) (cmd : Word) (data : Operand)
deriving DecidableEq, Repr

/-- The architectural tuple `(H, L, PHASE, ERR)` (R20). -/
structure Arch where
  h : Quad
  len : Counter
  phase : Phase
  err : ErrCode
deriving DecidableEq, Repr

/-- The state of one engine. -/
structure State where
  /-- `H[0..3]`, the chaining registers A, B, C, D (R21). -/
  h : Quad
  /-- `L`, the bit-length counter (R23). -/
  len : Counter
  /-- `PHASE` (R24). -/
  phase : Phase
  /-- `ERR` (R25). -/
  err : ErrCode
  /-- `a, b, c, d`, the working registers, in this order (R27). -/
  work : Quad
  /-- `M[0..15]`, the message words (R28). -/
  msg : Vector Word 16
  /-- `RC`, the round counter (R29). -/
  rc : BitVec 6
  /-- `P2PEND` (R30). -/
  p2pend : Bool
  /-- `BUSY` (R31). -/
  busy : Bool
  /-- The command word captured at acceptance (R63, R71), 0 when no command is carried out (log 1). -/
  cmdLatch : Word
  /-- The data operand captured at acceptance (R52), 0 when no command is carried out (log 1); `Blk(k)` reads it (R13). -/
  dataLatch : Operand
  /-- Where the command in progress stands (log 4). -/
  stage : Stage
  /-- Clock edges until BUSY falls (R71, R240; log 8). -/
  left : Nat
  /-- What the host does next at the ports (R70; log 2). -/
  inputs : List Input
deriving DecidableEq, Repr

/-- `(H, L, PHASE, ERR)` of a state (R20). -/
def State.arch (s : State) : Arch := ⟨s.h, s.len, s.phase, s.err⟩

/-- The reset state (R231). H, L, PHASE, ERR, BUSY and P2PEND are the spec's. The spec leaves `work`, `msg` and `rc`
unspecified and gives the two latches and `left` no value: zero. DESIGN CHOICE, unsafe (log 6). The host does nothing
until it is given something to do (log 13). -/
def State.reset : State where
  h := iv
  len := 0
  phase := .absorbing
  err := .noError
  work := #v[0, 0, 0, 0]
  msg := Vector.replicate 16 0
  rc := 0
  p2pend := false
  busy := false
  cmdLatch := 0
  dataLatch := 0
  stage := .idle
  left := 0
  inputs := []

/-- Reasons the machine stops with a fault. There is none: every command completes (R137, R150, R241), and an error of
R201 is a state, not a stop (log 15; safe: nothing is left out). -/
inductive Fault where
deriving DecidableEq, Repr

/-- Reasons an instruction has no meaning. -/
inductive Refusal where
  /-- An instruction the model has no meaning for, by its mnemonic. No arm of `exec` raises it: every row of the table
  has its meaning (log 15). It would be safe: the run stops. -/
  | notModelled (mnemonic : String)
deriving DecidableEq, Repr

/-- What a step of this machine answers. -/
abbrev Result := Host.Outcome State Fault Refusal

end Sys2Proof.Machine
end

