-- ==== Sys2Proof/Machine/Bytes.lean ====
section
/-! DEFINITION. Byte sequences and byte order (00_scope.md R11, R12; 20_memory.md R53 to R57). -/

namespace Sys2Proof.Machine

/-- Byte `k` of a value, `v[8k+7 : 8k]` (R9, R51). -/
def byteAt {w : Nat} (v : BitVec w) (k : Nat) : Byte := v.extractLsb' (8 * k) 8

/-- `zeros(k)` (R12). -/
def zeros (k : Nat) : List Byte := List.replicate k 0

/-- `LE32(w)` (R12). -/
def le32 (w : Word) : List Byte := [byteAt w 0, byteAt w 1, byteAt w 2, byteAt w 3]

/-- `LE64(v)` (R12). -/
def le64 (v : Counter) : List Byte :=
  [byteAt v 0, byteAt v 1, byteAt v 2, byteAt v 3, byteAt v 4, byteAt v 5, byteAt v 6, byteAt v 7]

/-- `decLE32(b0, b1, b2, b3)` (R12). -/
def decLE32 (b0 b1 b2 b3 : Byte) : Word :=
  b0.setWidth 32 ||| (b1.setWidth 32 <<< 8) ||| (b2.setWidth 32 <<< 16) ||| (b3.setWidth 32 <<< 24)

/-- `rotl(x, s)` (R11). The spec marks the definition as general knowledge: PRESUMED, safe for the amounts used (log 11). -/
def rotl (x : Word) (s : Nat) : Word := (x <<< s) ||| (x >>> (32 - s))

end Sys2Proof.Machine
end

