-- ==== Sys2Proof/Machine/Operands.lean ====
section
/-! DEFINITION. The operand forms: the lanes of the data operand, the padded blocks built from them, and the message
words of a block (20_memory.md R51 to R59, 43_commands.md R158 to R161). -/

namespace Sys2Proof.Machine

/-- `Blk(k) = DATA[8k+7 : 8k]` (R51). -/
def lane (data : Operand) (k : Nat) : Byte := byteAt data k

/-- The chunk `Blk(0) .. Blk(n-1)`, in stream order (R51). -/
def chunkBytes (data : Operand) (n : Nat) : List Byte := (List.range n).map (lane data)

/-- `PAD1(Blk, n, L)`, the single final block (R158). -/
def pad1 (data : Operand) (n : Nat) (len : Counter) : List Byte :=
  chunkBytes data n ++ [0x80#8] ++ zeros (55 - n) ++ le64 len

/-- `P1` of `PAD2(Blk, n, L)`, the first block of the split (R159): it holds no length field. -/
def pad2First (data : Operand) (n : Nat) : List Byte :=
  chunkBytes data n ++ [0x80#8] ++ zeros (63 - n)

/-- `P2` of `PAD2(Blk, n, L)`, the second block of the split (R159). -/
def pad2Second (len : Counter) : List Byte := zeros 56 ++ le64 len

/-- `M[j]` of a block: four bytes, little-endian (R53). -/
def messageWord (block : List Byte) (j : Nat) : Word :=
  decLE32 (block.getD (4 * j) 0) (block.getD (4 * j + 1) 0) (block.getD (4 * j + 2) 0) (block.getD (4 * j + 3) 0)

/-- `M[0..15]` of a block (R53, R132). -/
def messageWords (block : List Byte) : Vector Word 16 := Vector.ofFn fun j => messageWord block j

end Sys2Proof.Machine
end

