-- ==== Sys2Proof/Machine/Ops.lean ====
section
/-! DEFINITION. The named operations over the state: error entry and the way out of it, counting, the round step, loading a
block, the chaining addition, compression (41_round_functions.md, 42_compress.md, 43_commands.md, 60_exceptions.md). -/

namespace Sys2Proof.Machine

/-- Error entry, `enter_error(s, e)` (R207): `PHASE <- ERROR; ERR <- e`, nothing else. This is how the engine takes every
error of R201; there is no vector and no saved state. -/
def enterError (e : ErrCode) (s : State) : State := { s with phase := .error, err := e }

/-- What INIT writes (R151): `H <- IV; L <- 0; PHASE <- ABSORBING; ERR <- 0`. It is the only command that leaves ERROR (R209). -/
def initialise (s : State) : State := { s with h := iv, len := 0, phase := .absorbing, err := .noError }

/-- An error condition met in some phase (R208, R210): ignored in ERROR, else error entry. -/
def raise (e : ErrCode) (s : State) : State :=
  match s.phase with
  | .absorbing => enterError e s
  | .done => enterError e s
  | .error => s

/-- The checks a CHUNK goes through before its own effect (R150): ignored in ERROR, SEQUENCE in DONE (R204). -/
def whenAbsorbing (effect : State → State) (s : State) : State :=
  match s.phase with
  | .absorbing => effect s
  | .done => enterError .sequence s
  | .error => s

/-- Counting (R152): `L <- (L + 8*n) mod 2^64`. -/
def countBits (n : Nat) (s : State) : State := { s with len := s.len + BitVec.ofNat 64 (8 * n) }

/-- PHASE <- DONE, the end of a message (R156, R157). -/
def finish (s : State) : State := { s with phase := .done }

/-- `F(b, c, d)` (R100). -/
def funF (b c d : Word) : Word := (b &&& c) ||| (~~~b &&& d)

/-- `G(b, c, d)` (R101). -/
def funG (b c d : Word) : Word := (d &&& b) ||| (~~~d &&& c)

/-- `H(b, c, d)` (R102). -/
def funH (b c d : Word) : Word := b ^^^ c ^^^ d

/-- `I(b, c, d)` (R103). -/
def funI (b c d : Word) : Word := c ^^^ (b ||| ~~~d)

/-- `fun_i`, the function of a round group (R104). -/
def roundFun : Group → Word → Word → Word → Word
  | .f => funF
  | .g => funG
  | .h => funH
  | .i => funI

/-- `g(i)`, the message word that round `i` adds (R105). -/
def messageIndex (i : BitVec 6) : Fin 16 :=
  match groupOf i with
  | .f => Fin.ofNat 16 i.toNat
  | .g => Fin.ofNat 16 (5 * i.toNat + 1)
  | .h => Fin.ofNat 16 (3 * i.toNat + 5)
  | .i => Fin.ofNat 16 (7 * i.toNat)

/-- The round step (R109) with function `fn` in round `i`: `T` is the sum, and both uses of `b` read the old `b`. -/
def roundStep (fn : Word → Word → Word → Word) (i : BitVec 6) (m : Vector Word 16) (q : Quad) : Quad :=
  let a := q[0]
  let b := q[1]
  let c := q[2]
  let d := q[3]
  let t := fn b c d + a + krom i + m.get (messageIndex i)
  #v[d, b + rotl t (srom i).toNat, b, c]

/-- A round on the working registers of the state (R109, R114): nothing else is written. -/
def runRound (fn : Word → Word → Word → Word) (i : BitVec 6) (s : State) : State :=
  { s with work := roundStep fn i s.msg s.work }

/-- Rounds 0..63 in increasing order (R134), each with its group's function (R104). -/
def rounds (m : Vector Word 16) (q : Quad) : Quad :=
  (List.range 64).foldl (fun q i => roundStep (roundFun (groupOf (BitVec.ofNat 6 i))) (BitVec.ofNat 6 i) m q) q

/-- The chaining addition (R135): A with a, B with b, C with c, D with d, each modulo 2^32. -/
def chain (h w : Quad) : Quad := #v[h[0] + w[0], h[1] + w[1], h[2] + w[2], h[3] + w[3]]

/-- `COMPRESS(H, P)` (R130, R140). -/
def compress (h : Quad) (block : List Byte) : Quad := chain h (rounds (messageWords block) h)

/-- Load (R132, R133): `M` from the block, `a..d` from `H`. -/
def loadBlock (block : List Byte) (s : State) : State := { s with msg := messageWords block, work := s.h }

/-- The chaining addition on the state (R135, R136). -/
def chainState (s : State) : State := { s with h := chain s.h s.work }

/-- COMPRESS on the state (R130): load, 64 rounds, chaining addition. It writes `H`, `M` and the working registers only.
A transaction has no RC (R29), so RC keeps its value (log 7). -/
def compressState (block : List Byte) (s : State) : State :=
  { s with h := compress s.h block, msg := messageWords block, work := rounds (messageWords block) s.h }

end Sys2Proof.Machine
end

