-- ==== Sys2Proof/Machine/Commands.lean ====
section
/-! DEFINITION. The meanings of the host's commands (43_commands.md R151 to R162, 60_exceptions.md R203). A length
outside its row, which no word decodes to, follows the same formulas. DESIGN CHOICE, safe (log 12). -/

namespace Sys2Proof.Machine

/-- INIT (R151): carried out in every phase. -/
def execInit (s : State) : Result := .next (initialise s)

/-- CHUNK.ABSORB (R155): `L <- L + 512; H <- COMPRESS(H, Blk(0..63))`. -/
def execChunkAbsorb (s : State) : Result :=
  .next (whenAbsorbing (fun s => compressState (chunkBytes s.dataLatch 64) (countBits 64 s)) s)

/-- CHUNK.FINAL1 (R156): one padded block, with the counter after this chunk (R160), then DONE. -/
def execChunkFinal1 (n : BitVec 7) (s : State) : Result :=
  .next (whenAbsorbing (fun s =>
    let s1 := countBits n.toNat s
    finish (compressState (pad1 s1.dataLatch n.toNat s1.len) s1)) s)

/-- CHUNK.FINAL2 (R157): the two blocks of the split, the second on the chaining state the first produced, then DONE. -/
def execChunkFinal2 (n : BitVec 7) (s : State) : Result :=
  .next (whenAbsorbing (fun s =>
    let s1 := countBits n.toNat s
    let s2 := compressState (pad2First s1.dataLatch n.toNat) s1
    finish (compressState (pad2Second s2.len) s2)) s)

/-- ABORT (R162, R205): SOURCE_ABORT, ignored in ERROR. -/
def execAbort (s : State) : Result := .next (raise .sourceAbort s)

/-- CHUNK.BADLEN (R203): BAD_LENGTH in ABSORBING, SEQUENCE in DONE (R206), ignored in ERROR. The length itself has no effect. -/
def execChunkBadlen (_n : BitVec 7) (s : State) : Result := .next (whenAbsorbing (enterError .badLength) s)

end Sys2Proof.Machine
end

