-- ==== Sys2Proof/Machine/Rounds.lean ====
section
/-! DEFINITION. The meanings of the four round micro-operations (41_round_functions.md R110 to R113), in every
state (R114; log 12). -/

namespace Sys2Proof.Machine

/-- ROUND_F (R110), round `i = pos`. -/
def execRoundF (pos : BitVec 4) (s : State) : Result := .next (runRound funF (roundIndex .f pos) s)

/-- ROUND_G (R111), round `i = 16 + pos`. -/
def execRoundG (pos : BitVec 4) (s : State) : Result := .next (runRound funG (roundIndex .g pos) s)

/-- ROUND_H (R112), round `i = 32 + pos`. -/
def execRoundH (pos : BitVec 4) (s : State) : Result := .next (runRound funH (roundIndex .h pos) s)

/-- ROUND_I (R113), round `i = 48 + pos`. -/
def execRoundI (pos : BitVec 4) (s : State) : Result := .next (runRound funI (roundIndex .i pos) s)

end Sys2Proof.Machine
end

