-- ==== Sys2Proof/Machine/Dispatch.lean ====
section
/-! DEFINITION. One arm per row of opcode_table.json. -/

namespace Sys2Proof.Machine

def exec (i : Instr) (s : State) : Host.Outcome State Fault Refusal :=
  match i with
  | .init => Sys2Proof.Machine.execInit s
  | .chunkAbsorb => Sys2Proof.Machine.execChunkAbsorb s
  | .chunkFinal1 n => Sys2Proof.Machine.execChunkFinal1 n s
  | .chunkFinal2 n => Sys2Proof.Machine.execChunkFinal2 n s
  | .abort => Sys2Proof.Machine.execAbort s
  | .chunkBadlen n => Sys2Proof.Machine.execChunkBadlen n s
  | .roundF pos => Sys2Proof.Machine.execRoundF pos s
  | .roundG pos => Sys2Proof.Machine.execRoundG pos s
  | .roundH pos => Sys2Proof.Machine.execRoundH pos s
  | .roundI pos => Sys2Proof.Machine.execRoundI pos s

end Sys2Proof.Machine
end

