-- ==== Sys2Proof/Machine/Port.lean ====
section
/-! DEFINITION. The command port (30_encoding.md R70 to R77): what is captured at acceptance, and an accepted command as one
transaction (43_commands.md R150). -/

namespace Sys2Proof.Machine

/-- DATA is sampled by CHUNK only; INIT and ABORT do not sample it (R52, R70). -/
def samplesData (w : Word) : Bool := opField w == 0x2#4 && reservedField w == 0#21

/-- Capture at the accepting edge (R52, R63, R71). -/
def capture (w : Word) (data : Operand) (s : State) : State :=
  { s with cmdLatch := w, dataLatch := if samplesData w then data else s.dataLatch }

/-- The end of a command (R20, R52, R201): what was captured is held no longer. Empty is 0 (log 1). -/
def release (s : State) : State := { s with cmdLatch := 0, dataLatch := 0 }

/-- An accepted command as one step from the state before it to the state after it (R6, R150; log 3): an illegal word is
ILLEGAL_COMMAND (R202), a legal one runs its instruction. -/
def acceptCommand (w : Word) (data : Operand) (s : State) : Result :=
  match decodeCommand w with
  | .error _ => .next (release (raise .illegalCommand (capture w data s)))
  | .ok i =>
    match exec i (capture w data s) with
    | .next t => .next (release t)
    | .fault r => .fault r
    | .refused r => .refused r

end Sys2Proof.Machine
end

