-- ==== Sys2Proof/Machine/Sequencer.lean ====
section
/-! DEFINITION. A command edge by edge: the accepting edge, the micro-operations inside the engine, and the edges that BUSY
stays 1 (30_encoding.md R71, R82; 42_compress.md R132 to R136; 43_commands.md R157; 70_reset_and_hazards.md R230 to R241).
The order in which the micro-operations run against the clock is open (R139): here they run between the accepting edge and
the next one. DESIGN CHOICE, safe (log 4): no output shows it. -/

namespace Sys2Proof.Machine

/-- What the checks of R150 decide for an accepted word. -/
inductive Disposition where
  /-- In ERROR and not INIT (R208). -/
  | ignored
  /-- Error entry with this code (R207). -/
  | fails (e : ErrCode)
  | init
  | absorb
  | final1 (n : BitVec 7)
  | final2 (n : BitVec 7)
deriving DecidableEq, Repr

/-- An error condition in some phase: not recognised in ERROR (R208, R210). -/
def failDisposition (e : ErrCode) : Phase → Disposition
  | .absorbing => .fails e
  | .done => .fails e
  | .error => .ignored

/-- A CHUNK in some phase: SEQUENCE in DONE (R204), ignored in ERROR (R208). -/
def chunkDisposition (d : Disposition) : Phase → Disposition
  | .absorbing => d
  | .done => .fails .sequence
  | .error => .ignored

/-- The checks of R150 (R206), from the phase and the command word. No command word decodes to a round (R82). -/
def disposition (phase : Phase) (w : Word) : Disposition :=
  match decodeCommand w with
  | .error _ => failDisposition .illegalCommand phase
  | .ok .init => .init
  | .ok .abort => failDisposition .sourceAbort phase
  | .ok .chunkAbsorb => chunkDisposition .absorb phase
  | .ok (.chunkFinal1 n) => chunkDisposition (.final1 n) phase
  | .ok (.chunkFinal2 n) => chunkDisposition (.final2 n) phase
  | .ok (.chunkBadlen _) => chunkDisposition (.fails .badLength) phase
  | .ok (.roundF _) => .ignored
  | .ok (.roundG _) => .ignored
  | .ok (.roundH _) => .ignored
  | .ok (.roundI _) => .ignored

/-- The latency of an accepted command, in clock edges (R240; log 5). -/
def Disposition.latency : Disposition → Nat
  | .ignored => Config.latErr
  | .fails _ => Config.latErr
  | .init => Config.latInit
  | .absorb => Config.latAbsorb
  | .final1 _ => Config.latFinal1
  | .final2 _ => Config.latFinal2

/-- Start a compression: load the block, RC restarts at 0 (R34, R132, R133). -/
def startBlock (stage : Stage) (block : List Byte) (s : State) : State :=
  { loadBlock block s with rc := 0, stage := stage }

/-- What the accepting edge starts. L counts the chunk first (R152); PHASE and ERR are written only when the command
completes (R71, R236; log 10). -/
def startWork (d : Disposition) (s : State) : State :=
  match d with
  | .absorb => startBlock .lastRounds (chunkBytes s.dataLatch 64) (countBits 64 s)
  | .final1 n =>
    let s1 := countBits n.toNat s
    startBlock .lastRounds (pad1 s1.dataLatch n.toNat s1.len) s1
  | .final2 n => startBlock .firstRounds (pad2First s.dataLatch n.toNat) (countBits n.toNat s)
  | .ignored => { s with stage := .settled }
  | .fails _ => { s with stage := .settled }
  | .init => { s with stage := .settled }

/-- The accepting edge (R71): capture, BUSY <- 1, and the latency starts to run. -/
def startCommand (w : Word) (data : Operand) (s : State) : State :=
  startWork (disposition s.phase w)
    { capture w data s with busy := true, left := (disposition s.phase w).latency }

/-- RC after a round (R34): it advances by 1 and does not wrap; after round 63 the next stage begins. -/
def advanceRound (next : Stage) (s : State) : State :=
  if s.rc = 63#6 then { s with stage := next } else { s with rc := s.rc + 1 }

/-- One round of a compression in progress: the instruction that RC stands for (R82, R134), then RC advances. -/
def roundTick (next : Stage) (s : State) : Result :=
  match exec (decodeRound s.rc) s with
  | .next t => .next (advanceRound next t)
  | .fault r => .fault r
  | .refused r => .refused r

/-- What the completing edge writes (R71, R236; log 10): PHASE and ERR, and for INIT all that R151 writes. -/
def writeOutcome (d : Disposition) (s : State) : State :=
  match d with
  | .ignored => s
  | .fails e => enterError e s
  | .init => initialise s
  | .absorb => s
  | .final1 _ => finish s
  | .final2 _ => finish s

/-- The edge where BUSY returns to 0 (R71): the outcome is written and the captured command is let go. -/
def completeCommand (s : State) : State :=
  release { writeOutcome (disposition s.phase s.cmdLatch) s with busy := false, stage := .idle, left := 0 }

/-- The host's list after a clock edge at which the engine accepts nothing: an edge has passed; a command stays presented (R71, R235). -/
def afterEdge : List Input → List Input
  | .edge _ _ _ _ :: rest => rest
  | inputs => inputs

/-- A clock edge while BUSY = 1 with all work done (R71, R240): BUSY falls when the latency has passed. -/
def busyEdge (s : State) : State :=
  if s.left ≤ 1 then completeCommand { s with inputs := afterEdge s.inputs }
  else { s with inputs := afterEdge s.inputs, left := s.left - 1 }

/-- A step while BUSY = 1: the next micro-operation, or a clock edge when none is left. P2PEND is 1 exactly between the
two compressions of CHUNK.FINAL2 (R30; log 9). -/
def busyStep (s : State) : Result :=
  match s.stage with
  | .firstRounds => roundTick .firstChain s
  | .firstChain => .next { chainState s with p2pend := true, stage := .between }
  | .between => .next { startBlock .lastRounds (pad2Second s.len) s with p2pend := false }
  | .lastRounds => roundTick .lastChain s
  | .lastChain => .next { chainState s with stage := .settled }
  | .settled => .next (busyEdge s)
  | .idle => .next (busyEdge s)

/-- A step while BUSY = 0: the host's next action; without one the engine holds its state (R218). -/
def idleStep (s : State) : Result :=
  match s.inputs with
  | [] => .next s
  | .command w data :: rest => acceptCommand w data { s with inputs := rest }
  | .edge _ true w data :: rest => .next (startCommand w data { s with inputs := rest })
  | .edge _ false _ _ :: rest => .next { s with inputs := rest }

/-- A rising edge with `rst = 1` (R230 to R232): the reset state, whatever was in progress. The host's later actions stay. -/
def resetEdge (rest : List Input) : State := { State.reset with inputs := rest }

end Sys2Proof.Machine
end

