-- ==== Sys2Proof/Machine/Step.lean ====
section
/-! DEFINITION. The step, and how one given instruction comes to be the next one. -/

namespace Sys2Proof.Machine

/-- One step of the engine. Reset comes first, also inside a command (R230, R232); while BUSY = 1 the command in progress
goes on and no command is accepted (R71); otherwise the host's next action (log 2, log 4). -/
def step (s : State) : Host.Outcome State Fault Refusal :=
  match s.inputs with
  | .edge true _ _ _ :: rest => .next (resetEdge rest)
  | _ => if s.busy then busyStep s else idleStep s

/-- `s` with the instruction of a table row placed where the next step runs it (log 13). A command word is presented at
the command port of an engine that is not busy, with a data operand of zeros. A round index is put into RC of an engine
that is in the rounds of a compression; an edge without `rst` and without a command is what the host does meanwhile. -/
def State.withFetchWord (s : State) (nbits w : Nat) : State :=
  if nbits ≤ 8 then
    { s with busy := true, stage := .lastRounds, p2pend := false, rc := BitVec.ofNat 6 w, inputs := .edge false false 0 0 :: s.inputs }
  else
    { s with busy := false, stage := .idle, p2pend := false, inputs := .command (BitVec.ofNat 32 w) 0 :: s.inputs }

end Sys2Proof.Machine
end

