-- ==== Sys2Proof/Machine/Flags.lean ====
section
/-! DEFINITION. There are no flags (10_state.md R35). The only status bits are those of the `status` output; it, the
digest and `cmd_ready` are functions of the state (R37; 30_encoding.md R70, R78 to R81; 43_commands.md R165). -/

namespace Sys2Proof.Machine

/-- The code of `PHASE` (R24, R79). -/
def phaseCode : Phase → BitVec 2
  | .absorbing => 0
  | .done => 1
  | .error => 2

/-- The code of `ERR` (R80, R201). -/
def errCode : ErrCode → BitVec 3
  | .noError => 0
  | .illegalCommand => 1
  | .badLength => 2
  | .sequence => 3
  | .sourceAbort => 4

/-- `DIGEST_VALID` (R78): PHASE = DONE and BUSY = 0. -/
def digestValid (s : State) : Bool := s.phase == .done && !s.busy

/-- `status` (R78): `PHASE | (BUSY << 2) | (DIGEST_VALID << 3) | (ERR << 4)`. -/
def status (s : State) : Word :=
  (phaseCode s.phase).setWidth 32 ||| ((BitVec.ofBool s.busy).setWidth 32 <<< 2)
    ||| ((BitVec.ofBool (digestValid s)).setWidth 32 <<< 3) ||| ((errCode s.err).setWidth 32 <<< 4)

/-- The 16 digest bytes of a chaining state (R56, R165). -/
def digestBytes (h : Quad) : List Byte := le32 h[0] ++ le32 h[1] ++ le32 h[2] ++ le32 h[3]

/-- The `digest` port (R81): `H[3], H[2], H[1], H[0]` from the most significant word down when DIGEST_VALID = 1, else zero. -/
def digest (s : State) : Digest := if digestValid s then s.h[3] ++ s.h[2] ++ s.h[1] ++ s.h[0] else 0

/-- The value of the `rst` pin at the next edge, as far as the host's list says (R70; log 19). -/
def rstPin (s : State) : Bool :=
  match s.inputs with
  | .edge rst _ _ _ :: _ => rst
  | _ => false

/-- `cmd_ready = (BUSY = 0) and (rst = 0)` (R70). -/
def cmdReady (s : State) : Bool := !s.busy && !rstPin s

end Sys2Proof.Machine
end

