-- ==== Sys2Proof/Machine/Assembler.lean ====
section
/-! DEFINITION. The assembler lines and pseudo-instructions of 30_encoding.md R85 to R87, as data (the text form is not parsed: log 17). -/

namespace Sys2Proof.Machine

/-- A line of the assembler syntax (R85). -/
inductive AsmLine where
  | init
  | abort
  /-- `CHUNK <n>`: data lanes all zero. -/
  | chunkZeros (n : Nat)
  /-- `CHUNK <n>, <bytes>`, and `CHUNK <n>, "<text>"` with the text's ASCII bytes. -/
  | chunk (n : Nat) (bytes : List Byte)
  /-- `RAW <hex32> [, <bytes>]`. -/
  | raw (w : Word) (bytes : List Byte)
deriving DecidableEq, Repr

/-- The data operand whose lane `k` is byte `k`, and 0x00 beyond the bytes (R51, R87). -/
def operandOfBytes (bytes : List Byte) : Operand :=
  bytes.foldr (fun b acc => (acc <<< 8) ||| b.setWidth 512) 0

/-- `(n << 4) | 0x2` (R87). -/
def chunkWord (n : Nat) : Word := (BitVec.ofNat 32 n <<< 4) ||| 0x2#32

/-- The command of a line (R87), or nothing where the assembler rejects it (R85): a CHUNK whose byte count differs from
`n` or with `n > 64`. DESIGN CHOICE (log 17), where R85 and R87 are silent: the data operand of an INIT or ABORT line is zero
(unsafe: 93_implementation_defined.md says any value; the engine ignores it, R52), and a RAW line carries at most the 64 bytes that
the port has, from lane 0 on (safe). -/
def assemble : AsmLine → Option (Word × Operand)
  | .init => some (0x00000001#32, 0)
  | .abort => some (0x00000003#32, 0)
  | .chunkZeros n => if n ≤ 64 then some (chunkWord n, 0) else none
  | .chunk n bytes => if n ≤ 64 ∧ bytes.length = n then some (chunkWord n, operandOfBytes bytes) else none
  | .raw w bytes => if bytes.length ≤ 64 then some (w, operandOfBytes bytes) else none

/-- The pseudo-instruction `ABSORB <64 bytes>` (R86). -/
def absorbLine (bytes : List Byte) : Option AsmLine := if bytes.length = 64 then some (.chunk 64 bytes) else none

/-- The pseudo-instruction `FINAL <bytes>`, 0..63 bytes (R86). -/
def finalLine (bytes : List Byte) : Option AsmLine :=
  if bytes.length ≤ 63 then some (.chunk bytes.length bytes) else none

/-- Block `j` of a byte string: the bytes at offsets `64j .. 64j+63`. -/
def blockOf (m : List Byte) (j : Nat) : List Byte := (m.drop (64 * j)).take 64

/-- The pseudo-instruction `HASH <bytes>` (R86): INIT, one CHUNK 64 for each full block in order, one terminal CHUNK. -/
def hashLines (m : List Byte) : List AsmLine :=
  [.init] ++ (List.range (m.length / 64)).map (fun j => .chunk 64 (blockOf m j))
    ++ [.chunk (m.length % 64) (m.drop (64 * (m.length / 64)))]

/-- The commands of `HASH m`. -/
def hashCommands (m : List Byte) : List (Word × Operand) := (hashLines m).filterMap assemble

/-- A host that presents these commands one after the other, each as one transaction. -/
def hostOf (cmds : List (Word × Operand)) : List Input := cmds.map fun c => .command c.1 c.2

end Sys2Proof.Machine
end

