-- ==== Sys2Proof/Machine/Message.lean ====
section
/-! DEFINITION. The digest of a whole message, defined apart from the commands: pad the message, cut it into blocks, compress
them in order (43_commands.md R158, R159, R163, R165), and the host's rendering of a digest (R166). The machine does not
run any of this: statements hold the machine against it. -/

namespace Sys2Proof.Machine

/-- The whole message with its padding: the message, 0x80, zeros up to a length that is 56 modulo 64, and the bit length
modulo 2^64. DEDUCED (log 18): R158 and R159 put side by side, without their case split. -/
def paddedMessage (m : List Byte) : List Byte :=
  m ++ [0x80#8] ++ zeros ((119 - m.length % 64) % 64) ++ le64 (BitVec.ofNat 64 (8 * m.length))

/-- The MD5 chaining state of a message (R163): the padded message's blocks compressed in order, from IV. -/
def md5State (m : List Byte) : Quad :=
  (List.range ((paddedMessage m).length / 64)).foldl (fun h j => compress h (blockOf (paddedMessage m) j)) iv

/-- The 16 digest bytes of a message (R165). -/
def md5 (m : List Byte) : List Byte := digestBytes (md5State m)

/-- A lowercase hexadecimal digit (R166): the digits follow the character 0x30, the letters from ten on the character 0x61. -/
def hexDigit (x : BitVec 4) : Char :=
  if x.toNat < 10 then Char.ofNat (0x30 + x.toNat) else Char.ofNat (0x61 + (x.toNat - 10))

/-- The host's rendering of bytes (R166): two characters per byte, in array order, the high nibble first. -/
def renderHex (bytes : List Byte) : List Char :=
  bytes.flatMap fun b => [hexDigit (b.extractLsb' 4 4), hexDigit (b.extractLsb' 0 4)]

end Sys2Proof.Machine
end

