-- ==== Sys2Proof/Machine/Transaction.lean ====
section
/-! DEFINITION. The command step of 43_commands.md R150, line by line, over the architectural tuple `(H, L, PHASE, ERR)` alone.
The machine does not run it: statements hold the machine against it. -/

namespace Sys2Proof.Machine

/-- `enter_error(s, e)` on the tuple (R150, R207). -/
def Arch.enterError (s : Arch) (e : ErrCode) : Arch := ⟨s.h, s.len, .error, e⟩

/-- `step(s, w, DATA)` of R150: the checks in the order written, the first that applies decides. -/
def Arch.commandStep (s : Arch) (w : Word) (data : Operand) : Arch :=
  if s.phase = .error ∧ w ≠ 0x00000001#32 then s
  else if legal w = false then s.enterError .illegalCommand
  else if w = 0x00000001#32 then ⟨iv, 0, .absorbing, .noError⟩
  else if w = 0x00000003#32 then s.enterError .sourceAbort
  else if s.phase = .done then s.enterError .sequence
  else if 64 < (lengthField w).toNat then s.enterError .badLength
  else
    let n := (lengthField w).toNat
    let len := s.len + BitVec.ofNat 64 (8 * n)
    if n = 64 then ⟨compress s.h (chunkBytes data 64), len, s.phase, s.err⟩
    else if n ≤ 55 then ⟨compress s.h (pad1 data n len), len, .done, s.err⟩
    else ⟨compress (compress s.h (pad2First data n)) (pad2Second len), len, .done, s.err⟩

/-- A sequence of accepted commands (R60): each on the state the one before it left. -/
def Arch.commandSteps (s : Arch) (cmds : List (Word × Operand)) : Arch :=
  cmds.foldl (fun s c => s.commandStep c.1 c.2) s

end Sys2Proof.Machine
end

