-- ==== Sys2Proof/Safety.lean ====
section
/-! DEFINITION. The terms that claims use: a command boundary, the invariant of the machine, runs. -/

namespace Sys2Proof.Machine

/-- A command boundary (R31): no command is in progress. -/
def AtBoundary (s : State) : Prop := s.busy = false ∧ s.stage = .idle ∧ s.p2pend = false

/-- The input is a rising edge with `rst = 1` (R230). -/
def Input.isReset : Input → Bool
  | .edge rst _ _ _ => rst
  | .command _ _ => false

/-- The host asserts no reset in what it does next. -/
def NoReset (s : State) : Prop := ∀ i ∈ s.inputs, i.isReset = false

/-- What every step keeps. -/
structure Inv (s : State) : Prop where
  /-- `ERR = 0` if and only if `PHASE ≠ ERROR` (R25). -/
  errMatchesPhase : s.err = .noError ↔ s.phase ≠ .error
  /-- BUSY is 1 exactly while a command is in progress (R31). -/
  busyMatchesStage : s.busy = true ↔ s.stage ≠ .idle
  /-- P2PEND is 1 exactly between the two compressions of CHUNK.FINAL2 (R30). -/
  p2pendMatchesStage : s.p2pend = true ↔ s.stage = .between
  /-- No command and no data operand is held when no command is in progress (R20, R52; log 1). -/
  nothingCaptured : s.busy = false → s.cmdLatch = 0 ∧ s.dataLatch = 0
  /-- While BUSY = 1 at least one clock edge is still to come (R71, R240). -/
  edgesLeft : s.busy = true → 1 ≤ s.left
  /-- Only CHUNK.FINAL2 in ABSORBING has a first of two blocks (R157). -/
  firstBlockIsFinal2 : s.stage = .firstRounds ∨ s.stage = .firstChain ∨ s.stage = .between →
    ∃ n, disposition s.phase s.cmdLatch = .final2 n
  /-- Only a CHUNK that is carried out compresses (R131, R200). -/
  lastBlockIsChunk : s.stage = .lastRounds ∨ s.stage = .lastChain →
    disposition s.phase s.cmdLatch = .absorb ∨ (∃ n, disposition s.phase s.cmdLatch = .final1 n)
      ∨ (∃ n, disposition s.phase s.cmdLatch = .final2 n)

/-- How many micro-operations the model's schedule puts between the accepting edge and the first edge that is counted (log 4): 64
rounds and a chaining addition for each block (R134, R135), and the load of a second block (R157). -/
def Disposition.microOps : Disposition → Nat
  | .ignored => 0
  | .fails _ => 0
  | .init => 0
  | .absorb => 65
  | .final1 _ => 65
  | .final2 _ => 131

/-- The input is a rising edge with `rst = 0`, whatever the other pins (R70). -/
def Input.isEdgeWithoutReset : Input → Bool
  | .edge rst _ _ _ => !rst
  | .command _ _ => false

/-- `k` steps of the machine. -/
def runSteps (k : Nat) (s : State) : Result := Host.Core.run Sys2Proof.core k s

/-- A safe run's states: the engine has met no error (93_implementation_defined.md: "a claim takes 'no error' as a premise"). -/
def NoError (s : State) : Prop := s.phase ≠ .error

end Sys2Proof.Machine
end

