-- ==== Sys2Proof/Certificates/Slice0/Obligations.lean ====
section
/-! DEFINITION. The statements for the provers. Each docstring names the rules of spec/ that the statement formalises. -/

open Sys2Proof Sys2Proof.Machine

/-! ## Encoding (30_encoding.md) -/

/-- Decoding an encoded well-formed instruction gives it back, with every operand at every value its row admits (R72, R74, R82,
R87). -/
def Obligations.DecodeOfEncodeIsIdentity : Prop :=
  ∀ i : Instr, i.wellFormed = true → decode (encode i) = .ok i

/-- Whatever a code decodes to is well-formed and encodes to that code: each legal word has one meaning (R72 to R76, R82). -/
def Obligations.EncodeOfDecodeIsIdentity : Prop :=
  ∀ (c : Code) (i : Instr), decode c = .ok i → i.wellFormed = true ∧ encode i = c

/-- R76: the legal words are INIT, ABORT and CHUNK with any N; every word decodes to exactly one of them or is rejected; a legal
CHUNK with N > 64 is decoded as CHUNK and then refused with BAD_LENGTH. -/
def Obligations.LegalWordsDecodeAndOthersAreRejected : Prop :=
  ∀ w : Word,
    (decodeCommand w = .ok .init ↔ w = 0x00000001#32)
    ∧ (decodeCommand w = .ok .abort ↔ w = 0x00000003#32)
    ∧ (w.extractLsb' 0 4 = 0x2#4 ∧ w.extractLsb' 11 21 = 0#21 →
        decodeCommand w = .ok (chunkOfLength (w.extractLsb' 4 7)))
    ∧ (legal w = true ↔
        w = 0x00000001#32 ∨ w = 0x00000003#32 ∨ (w.extractLsb' 0 4 = 0x2#4 ∧ w.extractLsb' 11 21 = 0#21))
    ∧ ((∃ i, decodeCommand w = .ok i) ↔ legal w = true)
    ∧ ∀ (s : State) (data : Operand),
        w.extractLsb' 0 4 = 0x2#4 → w.extractLsb' 11 21 = 0#21 → 64 < (w.extractLsb' 4 7).toNat → s.phase = .absorbing →
        ∃ t, acceptCommand w data s = .next t ∧ t.phase = .error ∧ t.err = .badLength

/-- R74: the `N` field of the CHUNK word `(n << 4) | 2` selects the row. -/
def Obligations.ChunkLengthSelectsTheRow : Prop :=
  ∀ n : BitVec 7,
    (n.toNat = 64 → decodeCommand ((n.setWidth 32 <<< 4) ||| 0x2#32) = .ok .chunkAbsorb)
    ∧ (n.toNat ≤ 55 → decodeCommand ((n.setWidth 32 <<< 4) ||| 0x2#32) = .ok (.chunkFinal1 n))
    ∧ (56 ≤ n.toNat ∧ n.toNat ≤ 63 → decodeCommand ((n.setWidth 32 <<< 4) ||| 0x2#32) = .ok (.chunkFinal2 n))
    ∧ (65 ≤ n.toNat → decodeCommand ((n.setWidth 32 <<< 4) ||| 0x2#32) = .ok (.chunkBadlen n))

/-- R82: the index field `i[5:4]` selects the round, `i[3:0]` is the position in its group, and no command word is a round. -/
def Obligations.RoundIndexSelectsRoundAndNoCommandIsARound : Prop :=
  (∀ i : BitVec 6,
    (i.toNat < 16 → decode (.round i) = .ok (.roundF (i.extractLsb' 0 4)))
    ∧ (16 ≤ i.toNat ∧ i.toNat < 32 → decode (.round i) = .ok (.roundG (i.extractLsb' 0 4)))
    ∧ (32 ≤ i.toNat ∧ i.toNat < 48 → decode (.round i) = .ok (.roundH (i.extractLsb' 0 4)))
    ∧ (48 ≤ i.toNat → decode (.round i) = .ok (.roundI (i.extractLsb' 0 4))))
  ∧ ∀ (w : Word) (i : Instr), decodeCommand w = .ok i → i.isRound = false

/-- A few words written out bit by bit from the rows' encodings decode to the instructions they stand for. -/
def Obligations.WrittenOutWordsDecode : Prop :=
  decodeCommand 0b00000000000000000000000000000001#32 = .ok .init
  ∧ decodeCommand 0b00000000000000000000000000000011#32 = .ok .abort
  ∧ decodeCommand 0b00000000000000000000010000000010#32 = .ok .chunkAbsorb
  ∧ decodeCommand 0b00000000000000000000001101110010#32 = .ok (.chunkFinal1 55#7)
  ∧ decodeCommand 0b00000000000000000000001110000010#32 = .ok (.chunkFinal2 56#7)
  ∧ decodeCommand 0b00000000000000000000010000010010#32 = .ok (.chunkBadlen 65#7)
  ∧ decodeCommand 0b00000000000000000000000000000000#32 = .error .reservedOp
  ∧ decode (.round 0b010011#6) = .ok (.roundG 3#4)

/-- What the assembler makes of its lines (R85, R87): the command word, and for a CHUNK data lane `k` = byte `k`, 0x00 beyond the
bytes. Two clauses are the model's choice and no rule of the spec (DESIGN CHOICE, log 17): that the data operand of an INIT or ABORT
line is zero (R85 and R87 give it none, 93_implementation_defined.md says any value), and that a RAW line's bytes fill its lanes as a
CHUNK's do. -/
def Obligations.AssembledLinesHaveTheirWordsAndLanes : Prop :=
  assemble .init = some (0x00000001#32, 0)
  ∧ assemble .abort = some (0x00000003#32, 0)
  ∧ (∀ (n : Nat) (bytes : List Byte), n ≤ 64 → bytes.length = n →
      ∃ data, assemble (.chunk n bytes) = some ((BitVec.ofNat 32 n <<< 4) ||| 0x2#32, data)
        ∧ ∀ k, k < 64 → data.extractLsb' (8 * k) 8 = bytes.getD k 0)
  ∧ (∀ n : Nat, n ≤ 64 → assemble (.chunkZeros n) = some ((BitVec.ofNat 32 n <<< 4) ||| 0x2#32, 0))
  ∧ ∀ (w : Word) (bytes : List Byte), bytes.length ≤ 64 →
      ∃ data, assemble (.raw w bytes) = some (w, data) ∧ ∀ k, k < 64 → data.extractLsb' (8 * k) 8 = bytes.getD k 0

/-! ## The results of the commands (43_commands.md, 60_exceptions.md) -/

/-- R151: INIT is the word 0x00000001 and no other word, and in every phase writes H, L, PHASE and ERR, and nothing else. -/
def Obligations.InitWritesTheInitialState : Prop :=
  (∀ w : Word, decodeCommand w = .ok .init ↔ w = 0x00000001#32)
  ∧ ∀ s : State, exec .init s = .next { s with
      h := #v[0x67452301#32, 0xefcdab89#32, 0x98badcfe#32, 0x10325476#32]
      len := 0
      phase := .absorbing
      err := .noError }

/-- R155: CHUNK.ABSORB is the word 0x00000402. In ABSORBING it adds 512 to L and compresses `Blk(0..63)`; PHASE stays. In DONE it
raises SEQUENCE; in ERROR it is ignored. Beside H and L only the transient M and working registers are written (with what, the
rule does not say, and neither does this statement). -/
def Obligations.AbsorbCountsAndCompresses : Prop :=
  decodeCommand 0x00000402#32 = .ok .chunkAbsorb
  ∧ ∀ s : State,
    (s.phase = .absorbing → ∃ msg work, exec .chunkAbsorb s = .next { s with
      len := s.len + 512
      h := compress s.h ((List.range 64).map fun k => s.dataLatch.extractLsb' (8 * k) 8)
      msg := msg
      work := work })
    ∧ (s.phase = .done → exec .chunkAbsorb s = .next { s with phase := .error, err := .sequence })
    ∧ (s.phase = .error → exec .chunkAbsorb s = .next s)

/-- R156 with the block of R158 and the counter of R160: CHUNK.FINAL1 is `(n << 4) | 2` for `n` in 0..55; in ABSORBING it adds
`8n` to L, compresses `Blk(0..n-1) ++ [0x80] ++ zeros(55-n) ++ LE64(L)` with the new L, and goes to DONE; SEQUENCE in DONE;
ignored in ERROR. -/
def Obligations.Final1PadsOneBlock : Prop :=
  ∀ (s : State) (n : BitVec 7), n.toNat ≤ 55 →
    let len := s.len + BitVec.ofNat 64 (8 * n.toNat)
    let block := (List.range n.toNat).map (fun k => s.dataLatch.extractLsb' (8 * k) 8) ++ [0x80#8]
      ++ List.replicate (55 - n.toNat) 0#8 ++ le64 len
    decodeCommand ((n.setWidth 32 <<< 4) ||| 0x2#32) = .ok (.chunkFinal1 n)
    ∧ (s.phase = .absorbing → ∃ msg work, exec (.chunkFinal1 n) s = .next { s with
        len := len
        h := compress s.h block
        phase := .done
        msg := msg
        work := work })
    ∧ (s.phase = .done → exec (.chunkFinal1 n) s = .next { s with phase := .error, err := .sequence })
    ∧ (s.phase = .error → exec (.chunkFinal1 n) s = .next s)

/-- R157 with the blocks of R159: CHUNK.FINAL2 is `(n << 4) | 2` for `n` in 56..63; in ABSORBING it adds `8n` to L, compresses
`Blk(0..n-1) ++ [0x80] ++ zeros(63-n)`, then `zeros(56) ++ LE64(L)` on the chaining state the first produced, and goes to DONE;
SEQUENCE in DONE; ignored in ERROR. -/
def Obligations.Final2PadsTwoBlocks : Prop :=
  ∀ (s : State) (n : BitVec 7), 56 ≤ n.toNat → n.toNat ≤ 63 →
    let len := s.len + BitVec.ofNat 64 (8 * n.toNat)
    let p1 := (List.range n.toNat).map (fun k => s.dataLatch.extractLsb' (8 * k) 8) ++ [0x80#8]
      ++ List.replicate (63 - n.toNat) 0#8
    let p2 := List.replicate 56 0#8 ++ le64 len
    decodeCommand ((n.setWidth 32 <<< 4) ||| 0x2#32) = .ok (.chunkFinal2 n)
    ∧ (s.phase = .absorbing → ∃ msg work, exec (.chunkFinal2 n) s = .next { s with
        len := len
        h := compress (compress s.h p1) p2
        phase := .done
        msg := msg
        work := work })
    ∧ (s.phase = .done → exec (.chunkFinal2 n) s = .next { s with phase := .error, err := .sequence })
    ∧ (s.phase = .error → exec (.chunkFinal2 n) s = .next s)

/-- R162 and R205: ABORT is the word 0x00000003 and no other word; in ABSORBING and DONE it enters ERROR with SOURCE_ABORT and
leaves all else, H and L among it; in ERROR it is ignored. -/
def Obligations.AbortEntersSourceAbort : Prop :=
  (∀ w : Word, decodeCommand w = .ok .abort ↔ w = 0x00000003#32)
  ∧ ∀ s : State,
    (s.phase ≠ .error → exec .abort s = .next { s with phase := .error, err := .sourceAbort })
    ∧ (s.phase = .error → exec .abort s = .next s)

/-- R203 and, for a length over 64, R204 and R208: CHUNK.BADLEN enters ERROR with BAD_LENGTH in ABSORBING and with SEQUENCE in
DONE, leaves all else, and is ignored in ERROR. -/
def Obligations.BadLengthEntersError : Prop :=
  ∀ (s : State) (n : BitVec 7), 65 ≤ n.toNat →
    decodeCommand ((n.setWidth 32 <<< 4) ||| 0x2#32) = .ok (.chunkBadlen n)
    ∧ (s.phase = .absorbing → exec (.chunkBadlen n) s = .next { s with phase := .error, err := .badLength })
    ∧ (s.phase = .done → exec (.chunkBadlen n) s = .next { s with phase := .error, err := .sequence })
    ∧ (s.phase = .error → exec (.chunkBadlen n) s = .next s)

/-- R202: a word that is not legal raises ILLEGAL_COMMAND when it is accepted in ABSORBING or DONE; H and L stay. -/
def Obligations.IllegalWordEntersError : Prop :=
  ∀ (s : State) (w : Word) (data : Operand),
    w ≠ 0x00000001#32 → w ≠ 0x00000003#32 → ¬ (w.extractLsb' 0 4 = 0x2#4 ∧ w.extractLsb' 11 21 = 0#21) →
    s.phase ≠ .error →
    ∃ t, acceptCommand w data s = .next t ∧ t.phase = .error ∧ t.err = .illegalCommand ∧ t.h = s.h ∧ t.len = s.len

/-- R204: a legal CHUNK, any N, accepted in DONE raises SEQUENCE; H and L stay. -/
def Obligations.ChunkAfterTheEndRaisesSequence : Prop :=
  ∀ (s : State) (w : Word) (data : Operand),
    w.extractLsb' 0 4 = 0x2#4 → w.extractLsb' 11 21 = 0#21 → s.phase = .done →
    ∃ t, acceptCommand w data s = .next t ∧ t.phase = .error ∧ t.err = .sequence ∧ t.h = s.h ∧ t.len = s.len

/-- R152 and R153: a CHUNK that is carried out adds `8n` to L modulo 2^64; a CHUNK that is not leaves L. -/
def Obligations.CarriedOutChunkCountsItsBits : Prop :=
  ∀ (s : State) (w : Word) (data : Operand),
    w.extractLsb' 0 4 = 0x2#4 → w.extractLsb' 11 21 = 0#21 →
    let n := (w.extractLsb' 4 7).toNat
    ∃ t, acceptCommand w data s = .next t
      ∧ (s.phase = .absorbing ∧ n ≤ 64 → t.len.toNat = (s.len.toNat + 8 * n) % 2 ^ 64)
      ∧ (s.phase ≠ .absorbing ∨ 64 < n → t.len = s.len)

/-- R154: data lanes `n .. 63` of a CHUNK have no effect on any state: data that agree in lanes `0 .. n-1` give the same result.
-/
def Obligations.LanesBeyondTheChunkHaveNoEffect : Prop :=
  ∀ (s : State) (w : Word) (data data' : Operand),
    w.extractLsb' 0 4 = 0x2#4 → w.extractLsb' 11 21 = 0#21 →
    (∀ k, k < (w.extractLsb' 4 7).toNat → data.extractLsb' (8 * k) 8 = data'.extractLsb' (8 * k) 8) →
    ∃ t, acceptCommand w data s = .next t ∧ acceptCommand w data' s = .next t

/-- What no command writes: RC, P2PEND, BUSY, the captured word and operand, and the host's side. INIT, ABORT and CHUNK.BADLEN do
not touch M and the working registers either, and ABORT and CHUNK.BADLEN leave H and L (R151, R155 to R157, R162, R207). That a CHUNK
leaves RC and P2PEND is the model's choice for a transaction, which has neither (log 3, log 7; R157 lists P2PEND as transiently
written, and by edges the CHUNK writes both, log 9); the stage and the edge counter are the model's own fields (log 8). -/
def Obligations.CommandFrame : Prop :=
  ∀ (i : Instr) (s t : State), i.isRound = false → exec i s = .next t →
    t.rc = s.rc ∧ t.p2pend = s.p2pend ∧ t.busy = s.busy ∧ t.cmdLatch = s.cmdLatch ∧ t.dataLatch = s.dataLatch
    ∧ t.stage = s.stage ∧ t.left = s.left ∧ t.inputs = s.inputs
    ∧ (i = .init ∨ i = .abort ∨ (∃ n, i = .chunkBadlen n) → t.msg = s.msg ∧ t.work = s.work)
    ∧ (i = .abort ∨ (∃ n, i = .chunkBadlen n) → t.h = s.h ∧ t.len = s.len)
    ∧ (i ≠ .init → t.phase ≠ .error → t.err = s.err)

/-! ## The whole machine's promises -/

/-- R150: an accepted command takes `(H, L, PHASE, ERR)` to `step(s, w, DATA)` of the spec's pseudocode, whatever the word and
data. -/
def Obligations.AcceptedCommandIsThePseudocode : Prop :=
  ∀ (s : State) (w : Word) (data : Operand),
    ∃ t, acceptCommand w data s = .next t ∧ t.arch = s.arch.commandStep w data

/-- R60: commands take effect one at a time, in the order they are accepted: after all of them the tuple is the pseudocode step
folded over the sequence, and STATUS and DIGEST show exactly that tuple. -/
def Obligations.CommandsTakeEffectInOrder : Prop :=
  ∀ (cmds : List (Word × Operand)) (s : State), s.busy = false → s.inputs = hostOf cmds →
    ∃ t, runSteps cmds.length s = .next t ∧ t.arch = s.arch.commandSteps cmds ∧ t.busy = false ∧ t.inputs = []
      ∧ ∀ u : State, u.arch = s.arch.commandSteps cmds → u.busy = false → status t = status u ∧ digest t = digest u

/-- R207: where a command enters ERROR, nothing but PHASE and ERR changes (the places that held the captured command, which the
rule does not speak of, are left open), ERR holds a code, and no digest is shown. -/
def Obligations.ErrorsArePrecise : Prop :=
  ∀ (s t : State) (w : Word) (data : Operand),
    acceptCommand w data s = .next t → s.phase ≠ .error → t.phase = .error →
    t = { s with cmdLatch := t.cmdLatch, dataLatch := t.dataLatch, phase := .error, err := t.err }
    ∧ t.err ≠ .noError ∧ digestValid t = false ∧ digest t = 0

/-- R208: in ERROR every accepted command other than the word 0x00000001 changes no state, not even ERR (the places that held the
captured command left open); from a state where none is held it gives that very state back. -/
def Obligations.ErrorIsSticky : Prop :=
  ∀ (s : State) (w : Word) (data : Operand), s.phase = .error → w ≠ 0x00000001#32 →
    (∃ c d, acceptCommand w data s = .next { s with cmdLatch := c, dataLatch := d })
    ∧ (s.cmdLatch = 0 → s.dataLatch = 0 → acceptCommand w data s = .next s)

/-- R209: INIT and reset are the only ways out of ERROR; both give `(IV, 0, ABSORBING, 0)`. -/
def Obligations.OnlyInitAndResetLeaveError : Prop :=
  ∀ s t : State, step s = .next t → s.phase = .error → t.phase ≠ .error →
    t.arch = ⟨#v[0x67452301#32, 0xefcdab89#32, 0x98badcfe#32, 0x10325476#32], 0, .absorbing, .noError⟩
    ∧ ((∃ valid w data rest, s.inputs = .edge true valid w data :: rest)
      ∨ (s.busy = false ∧ ∃ data rest, s.inputs = .command 0x00000001#32 data :: rest)
      ∨ (s.busy = true ∧ s.cmdLatch = 0x00000001#32))

/-- In DONE no step changes H except a reset edge and one that carries out the word 0x00000001, as one transaction or as the edge
where that command completes; both end in `(IV, 0, ABSORBING, 0)`. So the digest is immutable once produced: R165's own inference
from R150. -/
def Obligations.DigestIsImmutableInDone : Prop :=
  ∀ s t : State, Inv s → step s = .next t → s.phase = .done →
    t.h = s.h
    ∨ (t.arch = ⟨#v[0x67452301#32, 0xefcdab89#32, 0x98badcfe#32, 0x10325476#32], 0, .absorbing, .noError⟩
      ∧ ((∃ valid w data rest, s.inputs = .edge true valid w data :: rest)
        ∨ (s.busy = false ∧ ∃ data rest, s.inputs = .command 0x00000001#32 data :: rest)
        ∨ (s.busy = true ∧ s.cmdLatch = 0x00000001#32)))

/-- Every step answers a next state: no input and no state stops the engine (R137, R150, R241). -/
def Obligations.EveryStepAnswersANextState : Prop :=
  ∀ s : State, ∃ t, step s = .next t

/-- The invariant holds after reset (R25, R30, R31; that the places for a captured command are then empty is log 6). -/
def Obligations.ResetMeetsTheInvariant : Prop := Inv State.reset

/-- Every step keeps the invariant, from every state that meets it: ERR matches PHASE (R25), BUSY, P2PEND and the command in
progress match one another (R30, R31), nothing is held of a command when none is in progress (log 1), only a CHUNK that is carried
out compresses (R131, R200). -/
def Obligations.EveryStepKeepsTheInvariant : Prop :=
  ∀ s t : State, Inv s → step s = .next t → Inv t

/-- The law of R163, the spec's own inference from R150 to R161: for every message, HASH from any command boundary ends in DONE
with ERR = 0, `L = 8*len mod 2^64`, H the chaining state of the padded message and the digest its 16 bytes. The padded message is
the model's reading of R158 and R159 (log 18). -/
def Obligations.HashGivesTheDigestOfTheMessage : Prop :=
  ∀ (m : List Byte) (s : State), s.busy = false → s.inputs = hostOf (hashCommands m) →
    ∃ t, runSteps (hashCommands m).length s = .next t
      ∧ t.phase = .done ∧ t.err = .noError ∧ t.len = BitVec.ofNat 64 (8 * m.length) ∧ t.h = md5State m
      ∧ digestValid t = true ∧ ∀ k, k < 16 → (digest t).extractLsb' (8 * k) 8 = (md5 m).getD k 0

/-- Only `(H, L, PHASE, ERR)` and the host's side matter at a command boundary: two engines that agree in them show the same
outputs and the same tuple after every number of steps, whatever their working registers, M, RC and captured operands hold (R27 to
R29, R164). -/
def Obligations.TransientStateIsNeverObserved : Prop :=
  ∀ (k : Nat) (s s' t : State), AtBoundary s → AtBoundary s' → s.arch = s'.arch → s.inputs = s'.inputs →
    runSteps k s = .next t →
    ∃ t', runSteps k s' = .next t' ∧ t'.arch = t.arch ∧ status t' = status t ∧ digest t' = digest t ∧ cmdReady t' = cmdReady t

/-! ## Steps, the clock edge and the micro-operations -/

/-- A step runs the decoded instruction: with BUSY = 0 and a command presented, the step captures it, takes it off the host's
list, runs the instruction it decodes to, and then holds what was captured no longer (R52, R71, R150; that a command of the list is
one step is log 3, that nothing is held after it log 1). -/
def Obligations.StepRunsThePresentedCommand : Prop :=
  ∀ (s : State) (w : Word) (data : Operand) (rest : List Input) (i : Instr),
    s.busy = false → s.inputs = .command w data :: rest → decodeCommand w = .ok i →
    ∃ t, exec i { s with
        inputs := rest
        cmdLatch := w
        dataLatch := if w.extractLsb' 0 4 = 0x2#4 then data else s.dataLatch } = .next t
      ∧ step s = .next { t with cmdLatch := 0, dataLatch := 0 }

/-- A step runs the decoded round (one round a step: log 4): in the rounds of a compression the step runs the round that RC stands
for; RC then advances by 1 and does not wrap, and after round 63 the chaining addition is due (R34, R82, R134). -/
def Obligations.StepRunsTheRoundOfTheCounter : Prop :=
  ∀ (s t : State),
    s.busy = true → (∀ valid w data rest, s.inputs ≠ .edge true valid w data :: rest) →
    exec (decodeRound s.rc) s = .next t →
    (s.stage = .firstRounds ∧ s.rc ≠ 63#6 → step s = .next { t with rc := s.rc + 1 })
    ∧ (s.stage = .firstRounds ∧ s.rc = 63#6 → step s = .next { t with stage := .firstChain })
    ∧ (s.stage = .lastRounds ∧ s.rc ≠ 63#6 → step s = .next { t with rc := s.rc + 1 })
    ∧ (s.stage = .lastRounds ∧ s.rc = 63#6 → step s = .next { t with stage := .lastChain })

/-- What `withFetchWord` places is what the next step runs (log 13): a command word as its instruction, with a data operand of
zeros for a CHUNK; a round index as its round. -/
def Obligations.PlacedWordIsRunNext : Prop :=
  ∀ (s : State) (nbits w : Nat) (i : Instr), decodeTableWord nbits w = some i →
    (8 < nbits → ∃ t, exec i { s with
        busy := false
        stage := .idle
        p2pend := false
        cmdLatch := BitVec.ofNat 32 w
        dataLatch := if (BitVec.ofNat 32 w).extractLsb' 0 4 = 0x2#4 then 0 else s.dataLatch } = .next t
      ∧ step (s.withFetchWord nbits w) = .next { t with cmdLatch := 0, dataLatch := 0 })
    ∧ (nbits ≤ 8 → ∃ u v, exec i s = .next u ∧ step (s.withFetchWord nbits w) = .next v
        ∧ v.work = u.work ∧ v.arch = s.arch ∧ v.msg = s.msg)

/-- R230 to R232: at a rising edge with rst = 1 the engine accepts nothing (cmd_ready = 0) and takes the reset state: H = IV, L =
0, ABSORBING, ERR = 0, BUSY = 0, P2PEND = 0, status = 0 and digest = 0; of a command in progress no effect remains. Two clauses
rest on the model's choices: that the step is the same from every state with the same list, the working registers, M and RC among it,
on log 6 (R231 leaves these unspecified), and that cmd_ready reads the rst of that edge on log 19. -/
def Obligations.ResetEdgeGivesTheResetState : Prop :=
  ∀ (s : State) (valid : Bool) (w : Word) (data : Operand) (rest : List Input),
    s.inputs = .edge true valid w data :: rest →
    cmdReady s = false ∧ (∀ s' : State, s'.inputs = s.inputs → step s' = step s) ∧ ∃ t, step s = .next t
      ∧ t.h = #v[0x67452301#32, 0xefcdab89#32, 0x98badcfe#32, 0x10325476#32] ∧ t.len = 0 ∧ t.phase = .absorbing ∧ t.err = .noError
      ∧ t.busy = false ∧ t.p2pend = false ∧ t.inputs = rest ∧ status t = 0 ∧ digest t = 0

/-- A command is accepted at an edge with cmd_valid = 1 and cmd_ready = 1, and at no other (R71, R235). At such an edge the engine
samples cmd and data and sets BUSY for the command's latency, counted in edges (log 5). A command held on the port while BUSY = 1 is
not accepted and not lost. At an edge with cmd_valid = 1 while BUSY = 1 cmd and data are not read: the step is the one of an edge with
cmd_valid = 0 and zeros, but for that edge itself where it is still to pass (a micro-operation takes no edge off the list, log 4). At
an edge with cmd_valid = 0 an idle engine accepts nothing, and at a reset edge none does. That cmd_ready reads the rst of the edge is
log 19. -/
def Obligations.AcceptanceAtAReadyEdge : Prop :=
  (∀ (s : State) (w : Word) (data : Operand) (rest : List Input),
    cmdReady s = true → s.inputs = .edge false true w data :: rest →
    ∃ t, step s = .next t ∧ t.busy = true ∧ t.cmdLatch = w ∧ t.inputs = rest ∧ t.phase = s.phase ∧ t.err = s.err
      ∧ (w.extractLsb' 0 4 = 0x2#4 ∧ w.extractLsb' 11 21 = 0#21 → t.dataLatch = data)
      ∧ t.left = (disposition s.phase w).latency ∧ 1 ≤ t.left)
  ∧ (∀ (s t : State) (w : Word) (data : Operand) (rest : List Input),
    cmdReady s = false → s.inputs = .command w data :: rest → step s = .next t → t.inputs = s.inputs)
  ∧ (∀ (s : State) (w : Word) (data : Operand) (rest : List Input),
    s.busy = true → s.inputs = .edge false true w data :: rest →
    ∃ t u, step s = .next t ∧ step { s with inputs := .edge false false 0 0 :: rest } = .next u
      ∧ t = { u with inputs := t.inputs }
      ∧ ((t.inputs = s.inputs ∧ u.inputs = .edge false false 0 0 :: rest) ∨ (t.inputs = rest ∧ u.inputs = rest)))
  ∧ (∀ (s : State) (w : Word) (data : Operand) (rest : List Input),
    s.busy = false → s.inputs = .edge false false w data :: rest → step s = .next { s with inputs := rest })
  ∧ ∀ (s : State) (valid : Bool) (w : Word) (data : Operand) (rest : List Input),
    s.inputs = .edge true valid w data :: rest → ∃ t, step s = .next t ∧ t.busy = false ∧ t.inputs = rest

/-- R240: which latency each accepted command has. -/
def Obligations.LatencyOfEachCommand : Prop :=
  ∀ (phase : Phase) (w : Word),
    (w = 0x00000001#32 → (disposition phase w).latency = Config.latInit)
    ∧ (w ≠ 0x00000001#32 ∧ phase ≠ .absorbing → (disposition phase w).latency = Config.latErr)
    ∧ (w ≠ 0x00000001#32 ∧ phase = .absorbing →
        (decodeCommand w = .ok .chunkAbsorb → (disposition phase w).latency = Config.latAbsorb)
        ∧ (∀ n, decodeCommand w = .ok (.chunkFinal1 n) → (disposition phase w).latency = Config.latFinal1)
        ∧ (∀ n, decodeCommand w = .ok (.chunkFinal2 n) → (disposition phase w).latency = Config.latFinal2)
        ∧ ((decodeCommand w = .ok .abort ∨ (∃ n, decodeCommand w = .ok (.chunkBadlen n)) ∨ (∃ r, decodeCommand w = .error r)) →
            (disposition phase w).latency = Config.latErr))

/-- BUSY lasts exactly the latency, counted in clock edges from the accepting one (R71, R240; log 5), for a host that gives further
edges without rst and for one that gives none. In three parts: with its work done a command keeps BUSY = 1 for exactly the edges that
are left; a micro-operation (round, chaining addition, second load) takes no edge and leaves that number as it is; and from the
accepting edge on, the micro-operations of the command (log 4) and as many edges as its latency keep BUSY = 1 until the last of these
edges, which takes the last of so many edges off the host's list. -/
def Obligations.BusyLastsTheLatency : Prop :=
  (∀ s : State, s.busy = true → s.stage = .settled → 1 ≤ s.left → (∀ i ∈ s.inputs, i.isEdgeWithoutReset = true) →
    (∀ k, k < s.left → ∃ t, runSteps k s = .next t ∧ t.busy = true)
    ∧ ∃ t, runSteps s.left s = .next t ∧ t.busy = false ∧ t.inputs = s.inputs.drop s.left)
  ∧ (∀ s : State, s.busy = true → s.stage ≠ .settled → s.stage ≠ .idle →
    (∀ valid w data rest, s.inputs ≠ .edge true valid w data :: rest) →
    ∃ t, step s = .next t ∧ t.busy = true ∧ t.left = s.left ∧ t.inputs = s.inputs)
  ∧ ∀ (s : State) (w : Word) (data : Operand) (edges : List Input),
    s.busy = false → s.inputs = .edge false true w data :: edges → (∀ i ∈ edges, i.isEdgeWithoutReset = true) →
    let d := disposition s.phase w
    (∃ t, runSteps (1 + d.microOps + d.latency) s = .next t ∧ t.busy = false ∧ t.inputs = edges.drop d.latency)
    ∧ ∀ k, 0 < k → k < 1 + d.microOps + d.latency → ∃ t, runSteps k s = .next t ∧ t.busy = true

/-- Every accepted command completes (R241): unless reset intervenes, BUSY returns to 0 after finitely many steps. The bound is
the model's (log 4): at most 131 micro-operations and the clock edges that are left. -/
def Obligations.EveryCommandCompletes : Prop :=
  ∀ s : State, Inv s → NoReset s → s.busy = true →
    ∃ k t, k ≤ 131 + s.left ∧ runSteps k s = .next t ∧ t.busy = false

/-- R236: while BUSY = 1 the status shows BUSY = 1, DIGEST_VALID = 0 and the digest is zero, and PHASE and ERR keep their values
until BUSY falls. -/
def Obligations.OutputsWhileBusy : Prop :=
  ∀ s : State, s.busy = true →
    (status s).getLsbD 2 = true ∧ (status s).getLsbD 3 = false ∧ digest s = 0
    ∧ ∀ t, step s = .next t → t.busy = true → t.phase = s.phase ∧ t.err = s.err ∧ status t = status s

/-- The model's two granularities agree (log 3, log 4): a command carried out edge by edge (accepting edge, rounds, chaining
additions, latency) ends in the state that the same command gives as one transaction, but for RC and the edge counter; until then
BUSY is 1 and PHASE and ERR are the old ones (R6, R60, R71, R134, R157, R236). -/
def Obligations.EdgeByEdgeRunIsTheTransaction : Prop :=
  ∀ (s : State) (w : Word) (data : Operand), AtBoundary s → s.inputs = [.edge false true w data] →
    ∃ k t u, runSteps k s = .next t ∧ acceptCommand w data { s with inputs := [] } = .next u
      ∧ t = { u with rc := t.rc, left := t.left } ∧ AtBoundary t
      ∧ ∀ j, 0 < j → j < k → ∃ v, runSteps j s = .next v ∧ v.busy = true ∧ v.phase = s.phase ∧ v.err = s.err

/-- A rising edge with neither reset nor a command, and no host action at all, leave an idle engine as it is (R218). -/
def Obligations.IdleEngineHoldsItsState : Prop :=
  ∀ s : State, s.busy = false →
    (s.inputs = [] → step s = .next s)
    ∧ ∀ w data rest, s.inputs = .edge false false w data :: rest → step s = .next { s with inputs := rest }

/-! ## Rounds, compression and byte order (41_round_functions.md, 42_compress.md, 20_memory.md) -/

/-- R110 to R113 with the functions of R100 to R103: each round micro-operation is the index with its group in `i[5:4]`, and
writes `(d, b + rotl(T, S[i]), b, c)` with `T = fun(b, c, d) + a + K[i] + M[g(i)]`, and nothing else. -/
def Obligations.RoundMicroOperations : Prop :=
  ∀ (s : State) (pos : BitVec 4),
    let a := s.work[0]
    let b := s.work[1]
    let c := s.work[2]
    let d := s.work[3]
    let i := pos.toNat
    let after := fun (t : Word) (r : BitVec 6) =>
      ({ s with work := #v[d, b + ((t <<< (srom r).toNat) ||| (t >>> (32 - (srom r).toNat))), b, c] } : State)
    (decode (.round (0#2 ++ pos)) = .ok (.roundF pos) ∧ decode (.round (1#2 ++ pos)) = .ok (.roundG pos)
      ∧ decode (.round (2#2 ++ pos)) = .ok (.roundH pos) ∧ decode (.round (3#2 ++ pos)) = .ok (.roundI pos))
    ∧ exec (.roundF pos) s = .next (after
      (((b &&& c) ||| (~~~b &&& d)) + a + krom (BitVec.ofNat 6 i) + s.msg.get (Fin.ofNat 16 i)) (BitVec.ofNat 6 i))
    ∧ exec (.roundG pos) s = .next (after
      (((d &&& b) ||| (~~~d &&& c)) + a + krom (BitVec.ofNat 6 (16 + i)) + s.msg.get (Fin.ofNat 16 (5 * (16 + i) + 1)))
      (BitVec.ofNat 6 (16 + i)))
    ∧ exec (.roundH pos) s = .next (after
      ((b ^^^ c ^^^ d) + a + krom (BitVec.ofNat 6 (32 + i)) + s.msg.get (Fin.ofNat 16 (3 * (32 + i) + 5)))
      (BitVec.ofNat 6 (32 + i)))
    ∧ exec (.roundI pos) s = .next (after
      ((c ^^^ (b ||| ~~~d)) + a + krom (BitVec.ofNat 6 (48 + i)) + s.msg.get (Fin.ofNat 16 (7 * (48 + i))))
      (BitVec.ofNat 6 (48 + i)))

/-- The laws of R114, the first of them the spec's own inference from R109: a round is a bijection of `(a, b, c, d)` for fixed M;
it reads the working registers and M only, writes the working registers only, and never fails. -/
def Obligations.RoundsAreBijections : Prop :=
  ∀ i : Instr, i.isRound = true →
    ∃ f : Vector Word 16 → Quad → Quad,
      (∀ s : State, exec i s = .next { s with work := f s.msg s.work }) ∧ ∀ m, Function.Bijective (f m)

/-- R100 to R104: the four functions, which rounds use them, and their results bit by bit (the spec's own inference): F selects c
or d by b, G selects b or c by d, H is parity, I is `c xor (b or not d)`. -/
def Obligations.RoundFunctionsBitByBit : Prop :=
  (∀ (i : BitVec 6) (b c d : Word),
    (i.toNat ≤ 15 → roundFun (groupOf i) b c d = ((b &&& c) ||| (~~~b &&& d)))
    ∧ (16 ≤ i.toNat ∧ i.toNat ≤ 31 → roundFun (groupOf i) b c d = ((d &&& b) ||| (~~~d &&& c)))
    ∧ (32 ≤ i.toNat ∧ i.toNat ≤ 47 → roundFun (groupOf i) b c d = (b ^^^ c ^^^ d))
    ∧ (48 ≤ i.toNat → roundFun (groupOf i) b c d = (c ^^^ (b ||| ~~~d))))
  ∧ ∀ (b c d : Word) (j : Nat), j < 32 →
    (funF b c d).getLsbD j = (if b.getLsbD j then c.getLsbD j else d.getLsbD j)
    ∧ (funG b c d).getLsbD j = (if d.getLsbD j then b.getLsbD j else c.getLsbD j)
    ∧ (funH b c d).getLsbD j = ((b.getLsbD j != c.getLsbD j) != d.getLsbD j)
    ∧ (funI b c d).getLsbD j = (c.getLsbD j != (b.getLsbD j || !d.getLsbD j))

/-- R105: the source-word index of each round, and (the spec's own inference) within each group of 16 rounds every message word
exactly once. -/
def Obligations.EveryGroupReadsEveryMessageWordOnce : Prop :=
  (∀ i : BitVec 6,
    (i.toNat ≤ 15 → (messageIndex i).val = i.toNat)
    ∧ (16 ≤ i.toNat ∧ i.toNat ≤ 31 → (messageIndex i).val = (5 * i.toNat + 1) % 16)
    ∧ (32 ≤ i.toNat ∧ i.toNat ≤ 47 → (messageIndex i).val = (3 * i.toNat + 5) % 16)
    ∧ (48 ≤ i.toNat → (messageIndex i).val = (7 * i.toNat) % 16))
  ∧ ∀ grp : Group, Function.Bijective fun pos : BitVec 4 => messageIndex (roundIndex grp pos)

/-- R108: the rotation amounts cycle by group, and all lie in 4..23. The spec marks the amounts as general knowledge (log 11). -/
def Obligations.RotationAmountsCycleByGroup : Prop :=
  ∀ i : BitVec 6,
    (srom i).toNat = ([[7, 12, 17, 22], [5, 9, 14, 20], [4, 11, 16, 23], [6, 10, 15, 21]].getD (i.toNat / 16) []).getD (i.toNat % 4) 0
    ∧ 4 ≤ (srom i).toNat ∧ (srom i).toNat ≤ 23

/-- R132 to R136: COMPRESS is: M decoded from the block and `a..d` loaded from H, then the 64 round micro-operations in increasing
order, then the working registers added to H, word by word. -/
def Obligations.CompressIsTheSixtyFourRounds : Prop :=
  ∀ (s : State) (block : List Byte),
    ∃ u : State,
      (List.range 64).foldl (fun (r : Result) i =>
          match r with
          | .next t => exec (decodeRound (BitVec.ofNat 6 i)) t
          | other => other)
        (.next { s with
          msg := messageWords block
          work := s.h }) = .next u
      ∧ u.h = s.h
      ∧ compressState block s = { u with h := #v[u.h[0] + u.work[0], u.h[1] + u.work[1], u.h[2] + u.work[2], u.h[3] + u.work[3]] }

/-- R53: the message words of a block are its bytes, four at a time, little-endian. -/
def Obligations.MessageWordsAreLittleEndian : Prop :=
  ∀ (block : List Byte) (j : Fin 16),
    (messageWords block).get j =
      (block.getD (4 * j) 0).setWidth 32 ||| ((block.getD (4 * j + 1) 0).setWidth 32 <<< 8)
        ||| ((block.getD (4 * j + 2) 0).setWidth 32 <<< 16) ||| ((block.getD (4 * j + 3) 0).setWidth 32 <<< 24)

/-- For a full chunk `M[j] = DATA[32j+31 : 32j]`: the spec's own inference from R51 and R53. -/
def Obligations.FullChunkWordsAreDataLanes : Prop :=
  ∀ (data : Operand) (j : Fin 16), (messageWords (chunkBytes data 64)).get j = data.extractLsb' (32 * j) 32

/-- The padded blocks are laid out as R158 and R159 say, offset by offset. That each has 64 bytes is those rules' own inference. -/
def Obligations.PaddedBlockLayout : Prop :=
  (∀ (data : Operand) (n : Nat) (len : Counter), n ≤ 55 →
    (pad1 data n len).length = 64
    ∧ ∀ k, k < 64 → (pad1 data n len).getD k 0 =
        if k < n then data.extractLsb' (8 * k) 8 else if k = n then 0x80 else if k < 56 then 0 else len.extractLsb' (8 * (k - 56)) 8)
  ∧ (∀ (data : Operand) (n : Nat), 56 ≤ n → n ≤ 63 →
    (pad2First data n).length = 64
    ∧ ∀ k, k < 64 → (pad2First data n).getD k 0 =
        if k < n then data.extractLsb' (8 * k) 8 else if k = n then 0x80 else 0)
  ∧ ∀ len : Counter,
    (pad2Second len).length = 64
    ∧ ∀ k, k < 64 → (pad2Second len).getD k 0 = if k < 56 then 0 else len.extractLsb' (8 * (k - 56)) 8

/-- The length field in message words: `M[14] = L[31:0]` and `M[15] = L[63:32]`, in the single block and in the second of the
split: the spec's own inference from R53 and R55. -/
def Obligations.LengthFieldInMessageWords : Prop :=
  (∀ (data : Operand) (n : Nat) (len : Counter), n ≤ 55 →
    (messageWords (pad1 data n len)).get 14 = len.extractLsb' 0 32 ∧ (messageWords (pad1 data n len)).get 15 = len.extractLsb' 32 32)
  ∧ ∀ len : Counter,
    (messageWords (pad2Second len)).get 14 = len.extractLsb' 0 32 ∧ (messageWords (pad2Second len)).get 15 = len.extractLsb' 32 32

/-! ## Outputs (30_encoding.md) -/

/-- R78 to R80: the fields of the status word; bits 31..7 are 0, PHASE is never 3 and ERR never above 4. -/
def Obligations.StatusWordFields : Prop :=
  ∀ s : State,
    (status s).extractLsb' 0 2 = (match s.phase with | .absorbing => 0#2 | .done => 1#2 | .error => 2#2)
    ∧ (status s).getLsbD 2 = s.busy
    ∧ ((status s).getLsbD 3 = true ↔ s.phase = .done ∧ s.busy = false)
    ∧ (status s).extractLsb' 4 3 =
        (match s.err with | .noError => 0#3 | .illegalCommand => 1#3 | .badLength => 2#3 | .sequence => 3#3 | .sourceAbort => 4#3)
    ∧ (status s).extractLsb' 7 25 = 0#25

/-- With DIGEST_VALID = 1 byte `m` of the digest port is digest byte `m`, and byte `4j + k` is byte `k` of `H[j]`; otherwise the port is
zero (R56, R81). That the port's four words are `H[0]` to `H[3]` is R81's own inference from itself and R56. -/
def Obligations.DigestPortBytes : Prop :=
  ∀ s : State,
    (s.phase = .done ∧ s.busy = false →
      (digest s).extractLsb' 0 32 = s.h[0] ∧ (digest s).extractLsb' 32 32 = s.h[1]
      ∧ (digest s).extractLsb' 64 32 = s.h[2] ∧ (digest s).extractLsb' 96 32 = s.h[3]
      ∧ (∀ m, m < 16 → (digest s).extractLsb' (8 * m) 8 = (le32 s.h[0] ++ le32 s.h[1] ++ le32 s.h[2] ++ le32 s.h[3]).getD m 0)
      ∧ ∀ (j : Fin 4) (k : Nat), k < 4 → (digest s).extractLsb' (8 * (4 * j + k)) 8 = (s.h.get j).extractLsb' (8 * k) 8)
    ∧ (s.phase ≠ .done ∨ s.busy = true → digest s = 0)

/-- cmd_ready is 1 exactly when BUSY = 0 and the rst pin is 0 (R70). That this pin is the one of the next edge, where the host's list
begins with an edge, and 0 where it does not, is the model's choice (log 19). -/
def Obligations.CommandReady : Prop :=
  ∀ s : State, cmdReady s = true ↔ s.busy = false ∧ ¬ ∃ valid w data rest, s.inputs = .edge true valid w data :: rest
end

