-- ==== Sys2Proof/Laws/Decode.lean ====
section
/-! SUPPORT. The fields of a command word and of a round index, and what the decoder makes of them. -/

namespace Sys2Proof

@[simp] theorem opField_commandWord (n : BitVec 7) (op : BitVec 4) : opField (commandWord n op) = op := by
  unfold opField commandWord
  ext k hk
  simp only [BitVec.getElem_extractLsb', BitVec.getLsbD_append]
  simp [hk, BitVec.getLsbD_eq_getElem]

@[simp] theorem lengthField_commandWord (n : BitVec 7) (op : BitVec 4) : lengthField (commandWord n op) = n := by
  unfold lengthField commandWord
  ext k hk
  simp only [BitVec.getElem_extractLsb', BitVec.getLsbD_append]
  simp [hk, BitVec.getLsbD_eq_getElem]

@[simp] theorem reservedField_commandWord (n : BitVec 7) (op : BitVec 4) : reservedField (commandWord n op) = 0#21 := by
  unfold reservedField commandWord
  ext k hk
  simp only [BitVec.getElem_extractLsb', BitVec.getLsbD_append, BitVec.getLsbD_zero]
  rw [if_neg (by omega), if_neg (by omega), BitVec.getElem_zero]

/-- A word is its three fields (R72). -/
theorem word_eq_fields (w : Word) : w = reservedField w ++ lengthField w ++ opField w := by
  unfold reservedField lengthField opField
  ext k hk
  rw [BitVec.getElem_append]
  split
  · rw [BitVec.getElem_extractLsb', Nat.zero_add, BitVec.getLsbD_eq_getElem]
  · rw [BitVec.getElem_append]
    split
    · rw [BitVec.getElem_extractLsb', ← BitVec.getLsbD_eq_getElem]; congr 1; omega
    · rw [BitVec.getElem_extractLsb', ← BitVec.getLsbD_eq_getElem]; congr 1; omega

/-- A word whose reserved field is 0 is put together again from its length and operation fields. -/
theorem commandWord_of_fields {w : Word} (h : reservedField w = 0#21) : commandWord (lengthField w) (opField w) = w := by
  unfold commandWord
  rw [← h, ← word_eq_fields]

@[simp] theorem groupOf_roundIndex (grp : Group) (pos : BitVec 4) : groupOf (roundIndex grp pos) = grp := by
  revert grp pos
  have h : ∀ pos : BitVec 4, groupOf (roundIndex .f pos) = .f ∧ groupOf (roundIndex .g pos) = .g
      ∧ groupOf (roundIndex .h pos) = .h ∧ groupOf (roundIndex .i pos) = .i := by decide
  intro grp pos
  cases grp
  · exact (h pos).1
  · exact (h pos).2.1
  · exact (h pos).2.2.1
  · exact (h pos).2.2.2

@[simp] theorem position_roundIndex (grp : Group) (pos : BitVec 4) : (roundIndex grp pos).extractLsb' 0 4 = pos := by
  unfold roundIndex
  ext k hk
  simp only [BitVec.getElem_extractLsb', BitVec.getLsbD_append]
  simp [hk, BitVec.getLsbD_eq_getElem]

/-- The decoder on a word built from its fields. -/
theorem decodeCommand_commandWord (n : BitVec 7) (op : BitVec 4) :
    decodeCommand (commandWord n op) =
      if op = 0x1#4 then if n = 0#7 then .ok .init else .error .lengthNotZero
      else if op = 0x2#4 then .ok (chunkOfLength n)
      else if op = 0x3#4 then if n = 0#7 then .ok .abort else .error .lengthNotZero
      else .error .reservedOp := by
  simp [decodeCommand]

/-- The round index is put together again from its group and position. -/
theorem roundIndex_of_fields (i : BitVec 6) : roundIndex (groupOf i) (i.extractLsb' 0 4) = i := by
  revert i; decide

/-- What a chunk length decodes to is well-formed (R74). -/
theorem chunkOfLength_wellFormed (n : BitVec 7) : (chunkOfLength n).wellFormed = true := by
  unfold chunkOfLength
  split
  · rfl
  · split
    · simpa [Instr.wellFormed]
    · split <;> simp [Instr.wellFormed] <;> omega

/-- A CHUNK is never a round. -/
theorem chunkOfLength_not_round (n : BitVec 7) : (chunkOfLength n).isRound = false := by
  unfold chunkOfLength
  repeat' split
  all_goals rfl

end Sys2Proof
end

