-- ==== Sys2Proof/Laws/State.lean ====
section
/-! SUPPORT. One lemma per field and operation on the state, each true by unfolding, so that no later proof unfolds a record update. -/

namespace Sys2Proof.Machine

@[simp] theorem enterError_h (e : ErrCode) (s : State) : (enterError e s).h = s.h := rfl
@[simp] theorem enterError_len (e : ErrCode) (s : State) : (enterError e s).len = s.len := rfl
@[simp] theorem enterError_phase (e : ErrCode) (s : State) : (enterError e s).phase = .error := rfl
@[simp] theorem enterError_err (e : ErrCode) (s : State) : (enterError e s).err = e := rfl
@[simp] theorem enterError_work (e : ErrCode) (s : State) : (enterError e s).work = s.work := rfl
@[simp] theorem enterError_msg (e : ErrCode) (s : State) : (enterError e s).msg = s.msg := rfl
@[simp] theorem enterError_rc (e : ErrCode) (s : State) : (enterError e s).rc = s.rc := rfl
@[simp] theorem enterError_p2pend (e : ErrCode) (s : State) : (enterError e s).p2pend = s.p2pend := rfl
@[simp] theorem enterError_busy (e : ErrCode) (s : State) : (enterError e s).busy = s.busy := rfl
@[simp] theorem enterError_cmdLatch (e : ErrCode) (s : State) : (enterError e s).cmdLatch = s.cmdLatch := rfl
@[simp] theorem enterError_dataLatch (e : ErrCode) (s : State) : (enterError e s).dataLatch = s.dataLatch := rfl
@[simp] theorem enterError_stage (e : ErrCode) (s : State) : (enterError e s).stage = s.stage := rfl
@[simp] theorem enterError_left (e : ErrCode) (s : State) : (enterError e s).left = s.left := rfl
@[simp] theorem enterError_inputs (e : ErrCode) (s : State) : (enterError e s).inputs = s.inputs := rfl

@[simp] theorem initialise_h (s : State) : (initialise s).h = iv := rfl
@[simp] theorem initialise_len (s : State) : (initialise s).len = 0 := rfl
@[simp] theorem initialise_phase (s : State) : (initialise s).phase = .absorbing := rfl
@[simp] theorem initialise_err (s : State) : (initialise s).err = .noError := rfl
@[simp] theorem initialise_work (s : State) : (initialise s).work = s.work := rfl
@[simp] theorem initialise_msg (s : State) : (initialise s).msg = s.msg := rfl
@[simp] theorem initialise_rc (s : State) : (initialise s).rc = s.rc := rfl
@[simp] theorem initialise_p2pend (s : State) : (initialise s).p2pend = s.p2pend := rfl
@[simp] theorem initialise_busy (s : State) : (initialise s).busy = s.busy := rfl
@[simp] theorem initialise_cmdLatch (s : State) : (initialise s).cmdLatch = s.cmdLatch := rfl
@[simp] theorem initialise_dataLatch (s : State) : (initialise s).dataLatch = s.dataLatch := rfl
@[simp] theorem initialise_stage (s : State) : (initialise s).stage = s.stage := rfl
@[simp] theorem initialise_left (s : State) : (initialise s).left = s.left := rfl
@[simp] theorem initialise_inputs (s : State) : (initialise s).inputs = s.inputs := rfl

@[simp] theorem countBits_h (n : Nat) (s : State) : (countBits n s).h = s.h := rfl
@[simp] theorem countBits_len (n : Nat) (s : State) : (countBits n s).len = s.len + BitVec.ofNat 64 (8 * n) := rfl
@[simp] theorem countBits_phase (n : Nat) (s : State) : (countBits n s).phase = s.phase := rfl
@[simp] theorem countBits_err (n : Nat) (s : State) : (countBits n s).err = s.err := rfl
@[simp] theorem countBits_work (n : Nat) (s : State) : (countBits n s).work = s.work := rfl
@[simp] theorem countBits_msg (n : Nat) (s : State) : (countBits n s).msg = s.msg := rfl
@[simp] theorem countBits_rc (n : Nat) (s : State) : (countBits n s).rc = s.rc := rfl
@[simp] theorem countBits_p2pend (n : Nat) (s : State) : (countBits n s).p2pend = s.p2pend := rfl
@[simp] theorem countBits_busy (n : Nat) (s : State) : (countBits n s).busy = s.busy := rfl
@[simp] theorem countBits_cmdLatch (n : Nat) (s : State) : (countBits n s).cmdLatch = s.cmdLatch := rfl
@[simp] theorem countBits_dataLatch (n : Nat) (s : State) : (countBits n s).dataLatch = s.dataLatch := rfl
@[simp] theorem countBits_stage (n : Nat) (s : State) : (countBits n s).stage = s.stage := rfl
@[simp] theorem countBits_left (n : Nat) (s : State) : (countBits n s).left = s.left := rfl
@[simp] theorem countBits_inputs (n : Nat) (s : State) : (countBits n s).inputs = s.inputs := rfl

@[simp] theorem finish_h (s : State) : (finish s).h = s.h := rfl
@[simp] theorem finish_len (s : State) : (finish s).len = s.len := rfl
@[simp] theorem finish_phase (s : State) : (finish s).phase = .done := rfl
@[simp] theorem finish_err (s : State) : (finish s).err = s.err := rfl
@[simp] theorem finish_work (s : State) : (finish s).work = s.work := rfl
@[simp] theorem finish_msg (s : State) : (finish s).msg = s.msg := rfl
@[simp] theorem finish_rc (s : State) : (finish s).rc = s.rc := rfl
@[simp] theorem finish_p2pend (s : State) : (finish s).p2pend = s.p2pend := rfl
@[simp] theorem finish_busy (s : State) : (finish s).busy = s.busy := rfl
@[simp] theorem finish_cmdLatch (s : State) : (finish s).cmdLatch = s.cmdLatch := rfl
@[simp] theorem finish_dataLatch (s : State) : (finish s).dataLatch = s.dataLatch := rfl
@[simp] theorem finish_stage (s : State) : (finish s).stage = s.stage := rfl
@[simp] theorem finish_left (s : State) : (finish s).left = s.left := rfl
@[simp] theorem finish_inputs (s : State) : (finish s).inputs = s.inputs := rfl

@[simp] theorem runRound_h (fn : Word → Word → Word → Word) (i : BitVec 6) (s : State) : (runRound fn i s).h = s.h := rfl
@[simp] theorem runRound_len (fn : Word → Word → Word → Word) (i : BitVec 6) (s : State) : (runRound fn i s).len = s.len := rfl
@[simp] theorem runRound_phase (fn : Word → Word → Word → Word) (i : BitVec 6) (s : State) : (runRound fn i s).phase = s.phase := rfl
@[simp] theorem runRound_err (fn : Word → Word → Word → Word) (i : BitVec 6) (s : State) : (runRound fn i s).err = s.err := rfl
@[simp] theorem runRound_work (fn : Word → Word → Word → Word) (i : BitVec 6) (s : State) : (runRound fn i s).work = roundStep fn i s.msg s.work := rfl
@[simp] theorem runRound_msg (fn : Word → Word → Word → Word) (i : BitVec 6) (s : State) : (runRound fn i s).msg = s.msg := rfl
@[simp] theorem runRound_rc (fn : Word → Word → Word → Word) (i : BitVec 6) (s : State) : (runRound fn i s).rc = s.rc := rfl
@[simp] theorem runRound_p2pend (fn : Word → Word → Word → Word) (i : BitVec 6) (s : State) : (runRound fn i s).p2pend = s.p2pend := rfl
@[simp] theorem runRound_busy (fn : Word → Word → Word → Word) (i : BitVec 6) (s : State) : (runRound fn i s).busy = s.busy := rfl
@[simp] theorem runRound_cmdLatch (fn : Word → Word → Word → Word) (i : BitVec 6) (s : State) : (runRound fn i s).cmdLatch = s.cmdLatch := rfl
@[simp] theorem runRound_dataLatch (fn : Word → Word → Word → Word) (i : BitVec 6) (s : State) : (runRound fn i s).dataLatch = s.dataLatch := rfl
@[simp] theorem runRound_stage (fn : Word → Word → Word → Word) (i : BitVec 6) (s : State) : (runRound fn i s).stage = s.stage := rfl
@[simp] theorem runRound_left (fn : Word → Word → Word → Word) (i : BitVec 6) (s : State) : (runRound fn i s).left = s.left := rfl
@[simp] theorem runRound_inputs (fn : Word → Word → Word → Word) (i : BitVec 6) (s : State) : (runRound fn i s).inputs = s.inputs := rfl

@[simp] theorem loadBlock_h (b : List Byte) (s : State) : (loadBlock b s).h = s.h := rfl
@[simp] theorem loadBlock_len (b : List Byte) (s : State) : (loadBlock b s).len = s.len := rfl
@[simp] theorem loadBlock_phase (b : List Byte) (s : State) : (loadBlock b s).phase = s.phase := rfl
@[simp] theorem loadBlock_err (b : List Byte) (s : State) : (loadBlock b s).err = s.err := rfl
@[simp] theorem loadBlock_work (b : List Byte) (s : State) : (loadBlock b s).work = s.h := rfl
@[simp] theorem loadBlock_msg (b : List Byte) (s : State) : (loadBlock b s).msg = messageWords b := rfl
@[simp] theorem loadBlock_rc (b : List Byte) (s : State) : (loadBlock b s).rc = s.rc := rfl
@[simp] theorem loadBlock_p2pend (b : List Byte) (s : State) : (loadBlock b s).p2pend = s.p2pend := rfl
@[simp] theorem loadBlock_busy (b : List Byte) (s : State) : (loadBlock b s).busy = s.busy := rfl
@[simp] theorem loadBlock_cmdLatch (b : List Byte) (s : State) : (loadBlock b s).cmdLatch = s.cmdLatch := rfl
@[simp] theorem loadBlock_dataLatch (b : List Byte) (s : State) : (loadBlock b s).dataLatch = s.dataLatch := rfl
@[simp] theorem loadBlock_stage (b : List Byte) (s : State) : (loadBlock b s).stage = s.stage := rfl
@[simp] theorem loadBlock_left (b : List Byte) (s : State) : (loadBlock b s).left = s.left := rfl
@[simp] theorem loadBlock_inputs (b : List Byte) (s : State) : (loadBlock b s).inputs = s.inputs := rfl

@[simp] theorem chainState_h (s : State) : (chainState s).h = chain s.h s.work := rfl
@[simp] theorem chainState_len (s : State) : (chainState s).len = s.len := rfl
@[simp] theorem chainState_phase (s : State) : (chainState s).phase = s.phase := rfl
@[simp] theorem chainState_err (s : State) : (chainState s).err = s.err := rfl
@[simp] theorem chainState_work (s : State) : (chainState s).work = s.work := rfl
@[simp] theorem chainState_msg (s : State) : (chainState s).msg = s.msg := rfl
@[simp] theorem chainState_rc (s : State) : (chainState s).rc = s.rc := rfl
@[simp] theorem chainState_p2pend (s : State) : (chainState s).p2pend = s.p2pend := rfl
@[simp] theorem chainState_busy (s : State) : (chainState s).busy = s.busy := rfl
@[simp] theorem chainState_cmdLatch (s : State) : (chainState s).cmdLatch = s.cmdLatch := rfl
@[simp] theorem chainState_dataLatch (s : State) : (chainState s).dataLatch = s.dataLatch := rfl
@[simp] theorem chainState_stage (s : State) : (chainState s).stage = s.stage := rfl
@[simp] theorem chainState_left (s : State) : (chainState s).left = s.left := rfl
@[simp] theorem chainState_inputs (s : State) : (chainState s).inputs = s.inputs := rfl

@[simp] theorem compressState_h (b : List Byte) (s : State) : (compressState b s).h = compress s.h b := rfl
@[simp] theorem compressState_len (b : List Byte) (s : State) : (compressState b s).len = s.len := rfl
@[simp] theorem compressState_phase (b : List Byte) (s : State) : (compressState b s).phase = s.phase := rfl
@[simp] theorem compressState_err (b : List Byte) (s : State) : (compressState b s).err = s.err := rfl
@[simp] theorem compressState_work (b : List Byte) (s : State) : (compressState b s).work = rounds (messageWords b) s.h := rfl
@[simp] theorem compressState_msg (b : List Byte) (s : State) : (compressState b s).msg = messageWords b := rfl
@[simp] theorem compressState_rc (b : List Byte) (s : State) : (compressState b s).rc = s.rc := rfl
@[simp] theorem compressState_p2pend (b : List Byte) (s : State) : (compressState b s).p2pend = s.p2pend := rfl
@[simp] theorem compressState_busy (b : List Byte) (s : State) : (compressState b s).busy = s.busy := rfl
@[simp] theorem compressState_cmdLatch (b : List Byte) (s : State) : (compressState b s).cmdLatch = s.cmdLatch := rfl
@[simp] theorem compressState_dataLatch (b : List Byte) (s : State) : (compressState b s).dataLatch = s.dataLatch := rfl
@[simp] theorem compressState_stage (b : List Byte) (s : State) : (compressState b s).stage = s.stage := rfl
@[simp] theorem compressState_left (b : List Byte) (s : State) : (compressState b s).left = s.left := rfl
@[simp] theorem compressState_inputs (b : List Byte) (s : State) : (compressState b s).inputs = s.inputs := rfl

@[simp] theorem capture_h (w : Word) (x : Operand) (s : State) : (capture w x s).h = s.h := rfl
@[simp] theorem capture_len (w : Word) (x : Operand) (s : State) : (capture w x s).len = s.len := rfl
@[simp] theorem capture_phase (w : Word) (x : Operand) (s : State) : (capture w x s).phase = s.phase := rfl
@[simp] theorem capture_err (w : Word) (x : Operand) (s : State) : (capture w x s).err = s.err := rfl
@[simp] theorem capture_work (w : Word) (x : Operand) (s : State) : (capture w x s).work = s.work := rfl
@[simp] theorem capture_msg (w : Word) (x : Operand) (s : State) : (capture w x s).msg = s.msg := rfl
@[simp] theorem capture_rc (w : Word) (x : Operand) (s : State) : (capture w x s).rc = s.rc := rfl
@[simp] theorem capture_p2pend (w : Word) (x : Operand) (s : State) : (capture w x s).p2pend = s.p2pend := rfl
@[simp] theorem capture_busy (w : Word) (x : Operand) (s : State) : (capture w x s).busy = s.busy := rfl
@[simp] theorem capture_cmdLatch (w : Word) (x : Operand) (s : State) : (capture w x s).cmdLatch = w := rfl
@[simp] theorem capture_dataLatch (w : Word) (x : Operand) (s : State) : (capture w x s).dataLatch = if samplesData w then x else s.dataLatch := rfl
@[simp] theorem capture_stage (w : Word) (x : Operand) (s : State) : (capture w x s).stage = s.stage := rfl
@[simp] theorem capture_left (w : Word) (x : Operand) (s : State) : (capture w x s).left = s.left := rfl
@[simp] theorem capture_inputs (w : Word) (x : Operand) (s : State) : (capture w x s).inputs = s.inputs := rfl

@[simp] theorem release_h (s : State) : (release s).h = s.h := rfl
@[simp] theorem release_len (s : State) : (release s).len = s.len := rfl
@[simp] theorem release_phase (s : State) : (release s).phase = s.phase := rfl
@[simp] theorem release_err (s : State) : (release s).err = s.err := rfl
@[simp] theorem release_work (s : State) : (release s).work = s.work := rfl
@[simp] theorem release_msg (s : State) : (release s).msg = s.msg := rfl
@[simp] theorem release_rc (s : State) : (release s).rc = s.rc := rfl
@[simp] theorem release_p2pend (s : State) : (release s).p2pend = s.p2pend := rfl
@[simp] theorem release_busy (s : State) : (release s).busy = s.busy := rfl
@[simp] theorem release_cmdLatch (s : State) : (release s).cmdLatch = 0 := rfl
@[simp] theorem release_dataLatch (s : State) : (release s).dataLatch = 0 := rfl
@[simp] theorem release_stage (s : State) : (release s).stage = s.stage := rfl
@[simp] theorem release_left (s : State) : (release s).left = s.left := rfl
@[simp] theorem release_inputs (s : State) : (release s).inputs = s.inputs := rfl

@[simp] theorem startBlock_h (st : Stage) (b : List Byte) (s : State) : (startBlock st b s).h = s.h := rfl
@[simp] theorem startBlock_len (st : Stage) (b : List Byte) (s : State) : (startBlock st b s).len = s.len := rfl
@[simp] theorem startBlock_phase (st : Stage) (b : List Byte) (s : State) : (startBlock st b s).phase = s.phase := rfl
@[simp] theorem startBlock_err (st : Stage) (b : List Byte) (s : State) : (startBlock st b s).err = s.err := rfl
@[simp] theorem startBlock_work (st : Stage) (b : List Byte) (s : State) : (startBlock st b s).work = s.h := rfl
@[simp] theorem startBlock_msg (st : Stage) (b : List Byte) (s : State) : (startBlock st b s).msg = messageWords b := rfl
@[simp] theorem startBlock_rc (st : Stage) (b : List Byte) (s : State) : (startBlock st b s).rc = 0 := rfl
@[simp] theorem startBlock_p2pend (st : Stage) (b : List Byte) (s : State) : (startBlock st b s).p2pend = s.p2pend := rfl
@[simp] theorem startBlock_busy (st : Stage) (b : List Byte) (s : State) : (startBlock st b s).busy = s.busy := rfl
@[simp] theorem startBlock_cmdLatch (st : Stage) (b : List Byte) (s : State) : (startBlock st b s).cmdLatch = s.cmdLatch := rfl
@[simp] theorem startBlock_dataLatch (st : Stage) (b : List Byte) (s : State) : (startBlock st b s).dataLatch = s.dataLatch := rfl
@[simp] theorem startBlock_stage (st : Stage) (b : List Byte) (s : State) : (startBlock st b s).stage = st := rfl
@[simp] theorem startBlock_left (st : Stage) (b : List Byte) (s : State) : (startBlock st b s).left = s.left := rfl
@[simp] theorem startBlock_inputs (st : Stage) (b : List Byte) (s : State) : (startBlock st b s).inputs = s.inputs := rfl

@[simp] theorem resetEdge_h (rest : List Input) : (resetEdge rest).h = iv := rfl
@[simp] theorem resetEdge_len (rest : List Input) : (resetEdge rest).len = 0 := rfl
@[simp] theorem resetEdge_phase (rest : List Input) : (resetEdge rest).phase = .absorbing := rfl
@[simp] theorem resetEdge_err (rest : List Input) : (resetEdge rest).err = .noError := rfl
@[simp] theorem resetEdge_p2pend (rest : List Input) : (resetEdge rest).p2pend = false := rfl
@[simp] theorem resetEdge_busy (rest : List Input) : (resetEdge rest).busy = false := rfl
@[simp] theorem resetEdge_stage (rest : List Input) : (resetEdge rest).stage = .idle := rfl
@[simp] theorem resetEdge_inputs (rest : List Input) : (resetEdge rest).inputs = rest := rfl

end Sys2Proof.Machine
end

