-- ==== Sys2Proof/Laws/Exec.lean ====
section
/-! SUPPORT. What the meanings, the captured command and an accepted command can do, said once. -/

namespace Sys2Proof.Machine

@[simp] theorem raise_absorbing {e : ErrCode} {s : State} (h : s.phase = .absorbing) : raise e s = enterError e s := by
  simp [raise, h]

@[simp] theorem raise_done {e : ErrCode} {s : State} (h : s.phase = .done) : raise e s = enterError e s := by
  simp [raise, h]

@[simp] theorem raise_error {e : ErrCode} {s : State} (h : s.phase = .error) : raise e s = s := by
  simp [raise, h]

@[simp] theorem whenAbsorbing_absorbing {f : State → State} {s : State} (h : s.phase = .absorbing) :
    whenAbsorbing f s = f s := by
  simp [whenAbsorbing, h]

@[simp] theorem whenAbsorbing_done {f : State → State} {s : State} (h : s.phase = .done) :
    whenAbsorbing f s = enterError .sequence s := by
  simp [whenAbsorbing, h]

@[simp] theorem whenAbsorbing_error {f : State → State} {s : State} (h : s.phase = .error) :
    whenAbsorbing f s = s := by
  simp [whenAbsorbing, h]

/-- What CHUNK.ABSORB does when it is carried out (R155). -/
def absorbEffect (s : State) : State := compressState (chunkBytes s.dataLatch 64) (countBits 64 s)

/-- What CHUNK.FINAL1 does when it is carried out (R156). -/
def final1Effect (n : BitVec 7) (s : State) : State :=
  finish (compressState (pad1 s.dataLatch n.toNat (s.len + BitVec.ofNat 64 (8 * n.toNat))) (countBits n.toNat s))

/-- What CHUNK.FINAL2 does when it is carried out (R157). -/
def final2Effect (n : BitVec 7) (s : State) : State :=
  finish (compressState (pad2Second (s.len + BitVec.ofNat 64 (8 * n.toNat)))
    (compressState (pad2First s.dataLatch n.toNat) (countBits n.toNat s)))

theorem exec_init (s : State) : exec .init s = .next (initialise s) := rfl

theorem exec_chunkAbsorb (s : State) : exec .chunkAbsorb s = .next (whenAbsorbing absorbEffect s) := rfl

theorem exec_chunkFinal1 (n : BitVec 7) (s : State) :
    exec (.chunkFinal1 n) s = .next (whenAbsorbing (final1Effect n) s) := rfl

theorem exec_chunkFinal2 (n : BitVec 7) (s : State) :
    exec (.chunkFinal2 n) s = .next (whenAbsorbing (final2Effect n) s) := rfl

theorem exec_abort (s : State) : exec .abort s = .next (raise .sourceAbort s) := rfl

theorem exec_chunkBadlen (n : BitVec 7) (s : State) :
    exec (.chunkBadlen n) s = .next (whenAbsorbing (enterError .badLength) s) := rfl

/-- The group and position of a round instruction, as its round index (R82). -/
theorem exec_decodeRound (i : BitVec 6) (s : State) :
    exec (decodeRound i) s = .next (runRound (roundFun (groupOf i)) i s) := by
  have h : ∀ i : BitVec 6, roundIndex (groupOf i) (i.extractLsb' 0 4) = i := by decide
  have hi := h i
  unfold decodeRound
  cases hg : groupOf i <;> rw [hg] at hi <;>
    simp only [exec, execRoundF, execRoundG, execRoundH, execRoundI, hi, roundFun]

/-- Every instruction answers a next state. -/
theorem exec_next (i : Instr) (s : State) : ∃ t, exec i s = .next t := by
  cases i <;> exact ⟨_, rfl⟩

/-- The three ways a chunk can end: carried out, SEQUENCE, ignored (R150). -/
theorem whenAbsorbing_cases (f : State → State) (s : State) :
    (s.phase = .absorbing ∧ whenAbsorbing f s = f s)
    ∨ (s.phase = .done ∧ whenAbsorbing f s = enterError .sequence s)
    ∨ (s.phase = .error ∧ whenAbsorbing f s = s) := by
  cases h : s.phase <;> simp [h]

/-- The two ways an error condition can end: error entry, ignored (R208). -/
theorem raise_cases (e : ErrCode) (s : State) :
    (s.phase ≠ .error ∧ raise e s = enterError e s) ∨ (s.phase = .error ∧ raise e s = s) := by
  cases h : s.phase <;> simp [h]

/-- An accepted command always answers a next state (R150: `step` is total). -/
theorem acceptCommand_next (w : Word) (x : Operand) (s : State) : ∃ t, acceptCommand w x s = .next t := by
  unfold acceptCommand
  split
  · exact ⟨_, rfl⟩
  · obtain ⟨t, ht⟩ := exec_next ‹Instr› (capture w x s)
    rw [ht]
    exact ⟨_, rfl⟩

/-- An accepted word that decodes runs its instruction on the captured operand; what was captured is let go after it (R71, R150). -/
theorem acceptCommand_of_decode {w : Word} {x : Operand} {s t : State} {i : Instr} (hd : decodeCommand w = .ok i)
    (h : exec i (capture w x s) = .next t) : acceptCommand w x s = .next (release t) := by
  simp only [acceptCommand, hd, h]

/-- An accepted word that does not decode is ILLEGAL_COMMAND (R202). -/
theorem acceptCommand_of_reject {w : Word} {x : Operand} {s : State} {r : Reject} (hd : decodeCommand w = .error r) :
    acceptCommand w x s = .next (release (raise .illegalCommand (capture w x s))) := by
  simp only [acceptCommand, hd]

end Sys2Proof.Machine
end

