-- ==== Sys2Proof/Laws/Operands.lean ====
section
/-! SUPPORT. The lengths and bytes of the operand forms. -/

namespace Sys2Proof.Machine

@[simp] theorem length_zeros (k : Nat) : (zeros k).length = k := by simp [zeros]

@[simp] theorem length_le64 (v : Counter) : (le64 v).length = 8 := rfl

@[simp] theorem length_le32 (v : Word) : (le32 v).length = 4 := rfl

@[simp] theorem length_chunkBytes (x : Operand) (n : Nat) : (chunkBytes x n).length = n := by simp [chunkBytes]

theorem getD_chunkBytes {x : Operand} {n k : Nat} (h : k < n) : (chunkBytes x n).getD k 0 = lane x k := by
  simp [chunkBytes, List.getD_eq_getElem?_getD, h]

/-- A chunk depends only on its own lanes (R154). -/
theorem chunkBytes_congr {x y : Operand} {n : Nat} (h : ∀ k, k < n → lane x k = lane y k) :
    chunkBytes x n = chunkBytes y n := by
  simp only [chunkBytes]
  exact List.map_congr_left fun k hk => h k (List.mem_range.mp hk)

theorem getD_zeros (k j : Nat) : (zeros k).getD j 0 = 0 := by
  simp only [zeros, List.getD_eq_getElem?_getD]
  by_cases h : j < k
  · rw [List.getElem?_replicate_of_lt h]; rfl
  · rw [List.getElem?_eq_none (by simpa using h)]; rfl

/-- Byte `k` of `LE64(v)` (R12). -/
theorem getD_le64 {v : Counter} {k : Nat} (h : k < 8) : (le64 v).getD k 0 = byteAt v k := by
  interval_cases k <;> rfl

/-- Byte `k` of two byte strings one after the other. -/
theorem getD_append (p q : List Byte) (k : Nat) :
    (p ++ q).getD k 0 = if k < p.length then p.getD k 0 else q.getD (k - p.length) 0 := by
  simp only [List.getD_eq_getElem?_getD]
  split
  · rw [List.getElem?_append_left (by assumption)]
  · rw [List.getElem?_append_right (by omega)]

@[simp] theorem get_messageWords (block : List Byte) (j : Fin 16) :
    (messageWords block).get j = messageWord block j := by
  simp [messageWords, Vector.get_eq_getElem]

end Sys2Proof.Machine
end

