-- ==== Sys2Proof/Laws/PerInstr.lean ====
section
/-! SUPPORT. A statement made of every instruction: the encoding of a well-formed instruction is a legal command word (R76), or, for a
round, an index whose field `i[5:4]` is the round's group (R82). -/

namespace Sys2Proof.Laws.LegalEncoding

/-- The encoding of a well-formed instruction is legal, and is a round index exactly for the rounds. -/
def Statement (i : Instr) : Prop :=
  i.wellFormed = true →
    match encode i with
    | .command w => i.isRound = false ∧ legal w = true
    | .round _ => i.isRound = true

theorem init : Statement .init := fun _ => ⟨rfl, by decide⟩

theorem chunkAbsorb : Statement .chunkAbsorb := fun _ => ⟨rfl, by decide⟩

theorem chunkFinal1 (n : BitVec 7) : Statement (.chunkFinal1 n) := fun _ => by simp [encode, legal, Instr.isRound]

theorem chunkFinal2 (n : BitVec 7) : Statement (.chunkFinal2 n) := fun _ => by simp [encode, legal, Instr.isRound]

theorem abort : Statement .abort := fun _ => ⟨rfl, by decide⟩

theorem chunkBadlen (n : BitVec 7) : Statement (.chunkBadlen n) := fun _ => by simp [encode, legal, Instr.isRound]

theorem roundF (pos : BitVec 4) : Statement (.roundF pos) := fun _ => rfl

theorem roundG (pos : BitVec 4) : Statement (.roundG pos) := fun _ => rfl

theorem roundH (pos : BitVec 4) : Statement (.roundH pos) := fun _ => rfl

theorem roundI (pos : BitVec 4) : Statement (.roundI pos) := fun _ => rfl

end Sys2Proof.Laws.LegalEncoding
end

