-- ==== Sys2Proof/Laws/Step.lean ====
section
/-! SUPPORT. What a step can do, said once: reset, a busy step by its stage, an idle step by the host's next action; and runs. -/

namespace Sys2Proof.Machine

/-- A rising edge with `rst = 1` comes first (R230). -/
theorem step_reset {s : State} {v : Bool} {w : Word} {x : Operand} {rest : List Input}
    (h : s.inputs = .edge true v w x :: rest) : step s = .next (resetEdge rest) := by
  unfold step
  rw [h]

/-- Without a reset edge, BUSY decides (R71). -/
theorem step_of_no_reset {s : State} (h : ∀ v w x rest, s.inputs ≠ .edge true v w x :: rest) :
    step s = if s.busy then busyStep s else idleStep s := by
  unfold step
  split
  · exact absurd (by assumption) (h _ _ _ _)
  · rfl

/-- The two kinds of a step. -/
theorem step_cases (s : State) :
    (∃ v w x rest, s.inputs = .edge true v w x :: rest ∧ step s = .next (resetEdge rest))
    ∨ ((∀ v w x rest, s.inputs ≠ .edge true v w x :: rest)
      ∧ ((s.busy = true ∧ step s = busyStep s) ∨ (s.busy = false ∧ step s = idleStep s))) := by
  by_cases h : ∃ v w x rest, s.inputs = .edge true v w x :: rest
  · obtain ⟨v, w, x, rest, h⟩ := h
    exact .inl ⟨v, w, x, rest, h, step_reset h⟩
  · have h' : ∀ v w x rest, s.inputs ≠ .edge true v w x :: rest := fun v w x rest hi => h ⟨v, w, x, rest, hi⟩
    refine .inr ⟨h', ?_⟩
    rw [step_of_no_reset h']
    cases s.busy
    · exact .inr ⟨rfl, rfl⟩
    · exact .inl ⟨rfl, rfl⟩

/-- A round of a compression in progress (R82, R134). -/
theorem roundTick_eq (next : Stage) (s : State) :
    roundTick next s = .next (advanceRound next (runRound (roundFun (groupOf s.rc)) s.rc s)) := by
  simp only [roundTick, exec_decodeRound]

/-- What a busy step does, by the stage of the command in progress. -/
theorem busyStep_cases (s : State) :
    (s.stage = .firstRounds ∧ busyStep s = .next (advanceRound .firstChain (runRound (roundFun (groupOf s.rc)) s.rc s)))
    ∨ (s.stage = .firstChain ∧ busyStep s = .next { chainState s with p2pend := true, stage := .between })
    ∨ (s.stage = .between ∧ busyStep s = .next { startBlock .lastRounds (pad2Second s.len) s with p2pend := false })
    ∨ (s.stage = .lastRounds ∧ busyStep s = .next (advanceRound .lastChain (runRound (roundFun (groupOf s.rc)) s.rc s)))
    ∨ (s.stage = .lastChain ∧ busyStep s = .next { chainState s with stage := .settled })
    ∨ ((s.stage = .settled ∨ s.stage = .idle) ∧ busyStep s = .next (busyEdge s)) := by
  cases h : s.stage <;> simp [busyStep, h, roundTick_eq]

/-- What an idle step does, by the host's next action. -/
theorem idleStep_cases (s : State) :
    (s.inputs = [] ∧ idleStep s = .next s)
    ∨ (∃ w x rest, s.inputs = .command w x :: rest ∧ idleStep s = acceptCommand w x { s with inputs := rest })
    ∨ (∃ r w x rest, s.inputs = .edge r true w x :: rest
        ∧ idleStep s = .next (startCommand w x { s with inputs := rest }))
    ∨ (∃ r w x rest, s.inputs = .edge r false w x :: rest ∧ idleStep s = .next { s with inputs := rest }) := by
  unfold idleStep
  rcases h : s.inputs with _ | ⟨⟨w, x⟩ | ⟨r, v, w, x⟩, rest⟩
  · exact .inl ⟨rfl, rfl⟩
  · exact .inr (.inl ⟨w, x, rest, rfl, rfl⟩)
  · cases v
    · exact .inr (.inr (.inr ⟨r, w, x, rest, rfl, rfl⟩))
    · exact .inr (.inr (.inl ⟨r, w, x, rest, rfl, rfl⟩))

@[simp] theorem runSteps_zero (s : State) : runSteps 0 s = .next s := rfl

theorem runSteps_succ (k : Nat) (s : State) :
    runSteps (k + 1) s = match step s with
      | .next t => runSteps k t
      | .fault r => .fault r
      | .refused r => .refused r := by
  refine (Host.Core.run.eq_2 Sys2Proof.core s k).trans ?_
  cases h : step s with
  | next t =>
    have h' : Sys2Proof.core.step s = .next t := h
    rw [h']
    rfl
  | fault r => exact nomatch r
  | refused r =>
    have h' : Sys2Proof.core.step s = .refused r := h
    rw [h']
    rfl

/-- One more step at the front of a run. -/
theorem runSteps_succ_of_step {k : Nat} {s t : State} (h : step s = .next t) : runSteps (k + 1) s = runSteps k t := by
  rw [runSteps_succ, h]

/-- A run in two parts. -/
theorem runSteps_add {j k : Nat} {s t : State} (h : runSteps j s = .next t) : runSteps (j + k) s = runSteps k t := by
  induction j generalizing s with
  | zero =>
    rw [runSteps_zero] at h
    rw [Nat.zero_add, Host.Outcome.next.inj h]
  | succ j ih =>
    rw [runSteps_succ] at h
    split at h
    · rename_i u hu
      rw [Nat.add_right_comm, runSteps_succ_of_step hu]
      exact ih h
    · exact nomatch h
    · exact nomatch h

end Sys2Proof.Machine
end

