-- ==== Sys2Proof/Laws/Sequencer.lean ====
section
/-! SUPPORT. What the parts of a command in progress keep and write, said once: capture, start, a round's advance, completion. -/

namespace Sys2Proof.Machine

/-- Every latency is at least 1 (R240). -/
theorem latency_pos (d : Disposition) : 1 ≤ d.latency := by
  cases d <;>
    simp [Disposition.latency, Config.latErr, Config.latInit, Config.latAbsorb, Config.latFinal1, Config.latFinal2]

/-- DATA is sampled exactly for a legal CHUNK (R52, R76). -/
theorem samplesData_eq (w : Word) :
    samplesData w = decide (w.extractLsb' 0 4 = 0x2#4 ∧ w.extractLsb' 11 21 = 0#21) := by
  rw [Bool.decide_and]
  rfl

/-- A command compresses only in ABSORBING (R131, R200). -/
theorem phase_of_compressing {p : Phase} {w : Word}
    (h : disposition p w = .absorb ∨ (∃ n, disposition p w = .final1 n) ∨ (∃ n, disposition p w = .final2 n)) :
    p = .absorbing := by
  unfold disposition at h
  cases p
  · rfl
  all_goals
    exfalso
    revert h
    split <;> simp [failDisposition, chunkDisposition]

/-- What a round's advance keeps: everything but RC and the stage (R34). -/
theorem advanceRound_frame (next : Stage) (s : State) :
    advanceRound next s = { s with rc := (advanceRound next s).rc, stage := (advanceRound next s).stage } := by
  unfold advanceRound
  split <;> rfl

/-- What the accepting edge keeps: PHASE and ERR are the old ones while BUSY = 1 (R236), and H is written only by a chaining addition. -/
theorem startWork_frame (d : Disposition) (s : State) :
    startWork d s = { s with
      len := (startWork d s).len
      work := (startWork d s).work
      msg := (startWork d s).msg
      rc := (startWork d s).rc
      stage := (startWork d s).stage } := by
  cases d <;> simp [startWork, startBlock, loadBlock, countBits]

/-- What the completing edge writes: BUSY, the captured command, the stage, the edge counter and the outcome on H, L, PHASE and ERR (R71). -/
theorem completeCommand_frame (s : State) :
    completeCommand s = { s with
      h := (completeCommand s).h
      len := (completeCommand s).len
      phase := (completeCommand s).phase
      err := (completeCommand s).err
      busy := false
      cmdLatch := 0
      dataLatch := 0
      stage := .idle
      left := 0 } := by
  unfold completeCommand writeOutcome release
  split <;> rfl

end Sys2Proof.Machine
end

