-- ==== Sys2Proof/Tests/Slice0.lean ====
section
/-! SUPPORT. Tests. Expected results come from spec/: the encodings of 30_encoding.md, the rules' worked examples, the vectors of
95_test_vectors.md. The witnesses at the end show, for each statement with hypotheses, concrete values that meet them. -/

namespace Sys2Proof.Tests

open Sys2Proof Sys2Proof.Machine

/-! ## Well-formedness: each check refuses an ill-formed term (R74) -/

theorem test_wellFormed_final1_too_long : (Instr.chunkFinal1 56#7).wellFormed = false := by decide

theorem test_wellFormed_final2_too_short : (Instr.chunkFinal2 55#7).wellFormed = false := by decide

theorem test_wellFormed_final2_too_long : (Instr.chunkFinal2 64#7).wellFormed = false := by decide

theorem test_wellFormed_badlen_legal_length : (Instr.chunkBadlen 64#7).wellFormed = false := by decide

/-! ## Decoding: a word of every row, written out from its encoding (R72 to R76, R82, R84) -/

theorem test_decode_init : decodeCommand 0b000000000000000000000_0000000_0001#32 = .ok .init := by decide

theorem test_decode_chunkAbsorb : decodeCommand 0b000000000000000000000_1000000_0010#32 = .ok .chunkAbsorb := by decide

/-- `CHUNK 43` = 0x000002B2 (R87). -/
theorem test_decode_chunkFinal1 : decodeCommand 0b000000000000000000000_0101011_0010#32 = .ok (.chunkFinal1 43#7) := by decide

/-- `CHUNK 63` = 0x000003F2 (R87). -/
theorem test_decode_chunkFinal2 : decodeCommand 0b000000000000000000000_0111111_0010#32 = .ok (.chunkFinal2 63#7) := by decide

theorem test_decode_abort : decodeCommand 0b000000000000000000000_0000000_0011#32 = .ok .abort := by decide

theorem test_decode_chunkBadlen : decodeCommand 0b000000000000000000000_1111111_0010#32 = .ok (.chunkBadlen 127#7) := by decide

theorem test_decode_roundF : decode (.round 0b00_1111#6) = .ok (.roundF 15#4) := by decide

theorem test_decode_roundG : decode (.round 0b01_0001#6) = .ok (.roundG 1#4) := by decide

theorem test_decode_roundH : decode (.round 0b10_0000#6) = .ok (.roundH 0#4) := by decide

theorem test_decode_roundI : decode (.round 0b11_1000#6) = .ok (.roundI 8#4) := by decide

/-- `OP = 0x4` (R73). -/
theorem test_decode_reserved_op : decodeCommand 0x00000004#32 = .error .reservedOp := by decide

/-- CHUNK 65 with reserved bit 11 set (R206). -/
theorem test_decode_reserved_bit : decodeCommand 0x00000c12#32 = .error .reservedBits := by decide

/-- INIT with `N = 1` (R75). -/
theorem test_decode_init_with_length : decodeCommand 0x00000011#32 = .error .lengthNotZero := by decide

/-- ABORT with `N = 1` (R75). -/
theorem test_decode_abort_with_length : decodeCommand 0x00000013#32 = .error .lengthNotZero := by decide

/-! ## Notation (95_test_vectors.md section 2.1) -/

theorem test_rotl_wraps : rotl 0x80000000#32 1 = 0x00000001#32 := by decide

theorem test_rotl_by_23 : rotl 0x12345678#32 23 = 0x3c091a2b#32 := by decide

theorem test_decLE32 : decLE32 0x61 0x62 0x63 0x80 = 0x80636261#32 := by decide

theorem test_le64 : le64 0x0123456789abcdef#64 = [0xef, 0xcd, 0xab, 0x89, 0x67, 0x45, 0x23, 0x01] := by decide

/-! ## The per-round constants: the table of 41_round_functions.md R106, read through the machine's own accessors -/

/-- `K[i]`, `S[i]` and `g(i)` of four rounds from `i` on. -/
def constantsFrom (i : Nat) : List (Word × BitVec 5 × Fin 16) :=
  (List.range 4).map fun k => (krom (BitVec.ofNat 6 (i + k)), srom (BitVec.ofNat 6 (i + k)), messageIndex (BitVec.ofNat 6 (i + k)))

/-- Rounds 0 to 15. -/
theorem test_constants_f :
    constantsFrom 0 =
      [(0xd76aa478, 7, 0), (0xe8c7b756, 12, 1), (0x242070db, 17, 2), (0xc1bdceee, 22, 3)]
    ∧ constantsFrom 4 =
      [(0xf57c0faf, 7, 4), (0x4787c62a, 12, 5), (0xa8304613, 17, 6), (0xfd469501, 22, 7)]
    ∧ constantsFrom 8 =
      [(0x698098d8, 7, 8), (0x8b44f7af, 12, 9), (0xffff5bb1, 17, 10), (0x895cd7be, 22, 11)]
    ∧ constantsFrom 12 =
      [(0x6b901122, 7, 12), (0xfd987193, 12, 13), (0xa679438e, 17, 14), (0x49b40821, 22, 15)] := by decide

/-- Rounds 16 to 31. -/
theorem test_constants_g :
    constantsFrom 16 =
      [(0xf61e2562, 5, 1), (0xc040b340, 9, 6), (0x265e5a51, 14, 11), (0xe9b6c7aa, 20, 0)]
    ∧ constantsFrom 20 =
      [(0xd62f105d, 5, 5), (0x02441453, 9, 10), (0xd8a1e681, 14, 15), (0xe7d3fbc8, 20, 4)]
    ∧ constantsFrom 24 =
      [(0x21e1cde6, 5, 9), (0xc33707d6, 9, 14), (0xf4d50d87, 14, 3), (0x455a14ed, 20, 8)]
    ∧ constantsFrom 28 =
      [(0xa9e3e905, 5, 13), (0xfcefa3f8, 9, 2), (0x676f02d9, 14, 7), (0x8d2a4c8a, 20, 12)] := by decide

/-- Rounds 32 to 47. -/
theorem test_constants_h :
    constantsFrom 32 =
      [(0xfffa3942, 4, 5), (0x8771f681, 11, 8), (0x6d9d6122, 16, 11), (0xfde5380c, 23, 14)]
    ∧ constantsFrom 36 =
      [(0xa4beea44, 4, 1), (0x4bdecfa9, 11, 4), (0xf6bb4b60, 16, 7), (0xbebfbc70, 23, 10)]
    ∧ constantsFrom 40 =
      [(0x289b7ec6, 4, 13), (0xeaa127fa, 11, 0), (0xd4ef3085, 16, 3), (0x04881d05, 23, 6)]
    ∧ constantsFrom 44 =
      [(0xd9d4d039, 4, 9), (0xe6db99e5, 11, 12), (0x1fa27cf8, 16, 15), (0xc4ac5665, 23, 2)] := by decide

/-- Rounds 48 to 63. -/
theorem test_constants_i :
    constantsFrom 48 =
      [(0xf4292244, 6, 0), (0x432aff97, 10, 7), (0xab9423a7, 15, 14), (0xfc93a039, 21, 5)]
    ∧ constantsFrom 52 =
      [(0x655b59c3, 6, 12), (0x8f0ccc92, 10, 3), (0xffeff47d, 15, 10), (0x85845dd1, 21, 1)]
    ∧ constantsFrom 56 =
      [(0x6fa87e4f, 6, 8), (0xfe2ce6e0, 10, 15), (0xa3014314, 15, 6), (0x4e0811a1, 21, 13)]
    ∧ constantsFrom 60 =
      [(0xf7537e82, 6, 4), (0xbd3af235, 10, 11), (0x2ad7d2bb, 15, 2), (0xeb86d391, 21, 9)] := by decide

/-! ## Rounds: single steps of 95_test_vectors.md section 2.3, with `M[0] = 0x80` and the other words 0 -/

/-- A state with these working registers and the message words of the empty message's block. -/
def roundState (a b c d : Word) : State :=
  { State.reset with work := #v[a, b, c, d], msg := messageWords ([0x80#8] ++ zeros 63) }

/-- The working registers after an instruction. -/
def workAfter (i : Instr) (s : State) : Option Quad :=
  match exec i s with
  | .next t => some t.work
  | .fault _ => none
  | .refused _ => none

/-- Round 0. -/
theorem test_roundF_first : workAfter (.roundF 0#4) (roundState 0x67452301 0xefcdab89 0x98badcfe 0x10325476) =
    some #v[0x10325476, 0xa5202774, 0xefcdab89, 0x98badcfe] := by decide

/-- Round 15. -/
theorem test_roundF_last : workAfter (.roundF 15#4) (roundState 0x70768a29 0x5aa53f75 0x374943a7 0xf56c7cf1) =
    some #v[0xf56c7cf1, 0xd6819c6a, 0x5aa53f75, 0x374943a7] := by decide

/-- Round 16. -/
theorem test_roundG_first : workAfter (.roundG 0#4) (roundState 0xf56c7cf1 0xd6819c6a 0x5aa53f75 0x374943a7) =
    some #v[0x374943a7, 0x1c7d7513, 0xd6819c6a, 0x5aa53f75] := by decide

/-- Round 31. -/
theorem test_roundG_last : workAfter (.roundG 15#4) (roundState 0xa0572807 0x1c31c384 0xae7813db 0x13707036) =
    some #v[0x13707036, 0xa2205f1f, 0x1c31c384, 0xae7813db] := by decide

/-- Round 32. -/
theorem test_roundH_first : workAfter (.roundH 0#4) (roundState 0x13707036 0xa2205f1f 0x1c31c384 0xae7813db) =
    some #v[0xae7813db, 0xdf63eaa1, 0xa2205f1f, 0x1c31c384] := by decide

/-- Round 47. -/
theorem test_roundH_last : workAfter (.roundH 15#4) (roundState 0x0fe32453 0x68d84ea2 0x22a31f54 0x3f55edfd) =
    some #v[0x3f55edfd, 0xca7d2dbd, 0x68d84ea2, 0x22a31f54] := by decide

/-- Round 48. -/
theorem test_roundI_first : workAfter (.roundI 0#4) (roundState 0x3f55edfd 0xca7d2dbd 0x68d84ea2 0x22a31f54) =
    some #v[0x22a31f54, 0x93aa2577, 0xca7d2dbd, 0x68d84ea2] := by decide

/-- Round 63. -/
theorem test_roundI_last : workAfter (.roundI 15#4) (roundState 0x30130182 0xff4ea3eb 0x6e10a476 0x7246fad3) =
    some #v[0x7246fad3, 0x14e45506, 0xff4ea3eb, 0x6e10a476] := by decide

/-! ## Commands: vectors of 95_test_vectors.md sections 2.7 and 2.8 -/

/-- A state at a command boundary with this architectural tuple. -/
def boundaryState (h : Quad) (len : Counter) (phase : Phase) (err : ErrCode) : State :=
  { State.reset with h := h, len := len, phase := phase, err := err }

/-- The tuple and the status word after an accepted command. -/
def afterCommand (w : Word) (data : Operand) (s : State) : Option (Arch × Word) :=
  match acceptCommand w data s with
  | .next t => some (t.arch, status t)
  | .fault _ => none
  | .refused _ => none

/-- `S-A64`: after INIT and CHUNK 64 of "a". -/
def afterOneBlock : Quad := #v[0x89d4ff56, 0x125cd962, 0x69cade33, 0x0033e325]

/-- `S-ABC`: after HASH "abc". -/
def afterAbc : Quad := #v[0x98500190, 0xb04fd23c, 0x7d3f96d6, 0x727fe128]

/-- V-INIT2. -/
theorem test_init_in_done : afterCommand 0x00000001#32 0 (boundaryState afterAbc 24 .done .noError) =
    some (⟨#v[0x67452301, 0xefcdab89, 0x98badcfe, 0x10325476], 0, .absorbing, .noError⟩, 0x00000000#32) := by decide

/-- V-INIT3. -/
theorem test_init_in_error : afterCommand 0x00000001#32 0 (boundaryState iv 0 .error .badLength) =
    some (⟨#v[0x67452301, 0xefcdab89, 0x98badcfe, 0x10325476], 0, .absorbing, .noError⟩, 0x00000000#32) := by decide

/-- V-ABS2. -/
theorem test_absorb_second_block :
    afterCommand 0x00000402#32 (operandOfBytes (List.replicate 64 0x61)) (boundaryState afterOneBlock 512 .absorbing .noError) =
    some (⟨#v[0xe01b99d7, 0xa1e609c6, 0xfed21dea, 0xbe6b6b4f], 1024, .absorbing, .noError⟩, 0x00000000#32) := by decide +kernel

/-- V-LANES: lanes 3..63 are 0xff and have no effect. -/
theorem test_final1_ignores_lanes :
    afterCommand 0x00000032#32 (operandOfBytes ([0x61, 0x62, 0x63] ++ List.replicate 61 0xff)) State.reset =
    some (⟨#v[0x98500190, 0xb04fd23c, 0x7d3f96d6, 0x727fe128], 24, .done, .noError⟩, 0x00000009#32) := by decide +kernel

/-- V-WRAP: the counter wraps. -/
theorem test_final1_counter_wraps : afterCommand 0x00000012#32 0x61#512 (boundaryState iv 0xfffffffffffffff8 .absorbing .noError) =
    some (⟨#v[0x889d383a, 0x7c7249a3, 0xace95167, 0x370f0bae], 0, .done, .noError⟩, 0x00000009#32) := by decide +kernel

/-- V-FIN2c. -/
theorem test_final2_after_a_block :
    afterCommand 0x00000382#32 (operandOfBytes (List.replicate 56 0x61)) (boundaryState afterOneBlock 512 .absorbing .noError) =
    some (⟨#v[0xccc0615f, 0x44ac4cad, 0x05f55fc7, 0x37e5f1e1], 960, .done, .noError⟩, 0x00000009#32) := by decide +kernel

/-- V-FIN2b. -/
theorem test_final2_longest : afterCommand 0x000003f2#32 (operandOfBytes (List.replicate 63 0x61)) State.reset =
    some (⟨#v[0xf32165b0, 0x18d65391, 0xbe060655, 0xd5667429], 504, .done, .noError⟩, 0x00000009#32) := by decide +kernel

/-- V-ABORT2. -/
theorem test_abort_in_done : afterCommand 0x00000003#32 0 (boundaryState afterAbc 24 .done .noError) =
    some (⟨afterAbc, 24, .error, .sourceAbort⟩, 0x00000042#32) := by decide

/-- V-ERR19. -/
theorem test_abort_in_error : afterCommand 0x00000003#32 0 (boundaryState iv 0 .error .illegalCommand) =
    some (⟨iv, 0, .error, .illegalCommand⟩, 0x00000012#32) := by decide

/-- V-ERR10. -/
theorem test_badlen_in_absorbing : afterCommand 0x000007f2#32 0 (boundaryState afterOneBlock 512 .absorbing .noError) =
    some (⟨afterOneBlock, 512, .error, .badLength⟩, 0x00000022#32) := by decide

/-- V-ERR12: SEQUENCE comes before BAD_LENGTH. -/
theorem test_badlen_in_done : afterCommand 0x00000412#32 0 (boundaryState afterAbc 24 .done .noError) =
    some (⟨afterAbc, 24, .error, .sequence⟩, 0x00000032#32) := by decide

/-- V-ERR8: ILLEGAL_COMMAND comes before BAD_LENGTH. -/
theorem test_illegal_before_badlen : afterCommand 0x00000c12#32 0 State.reset =
    some (⟨iv, 0, .error, .illegalCommand⟩, 0x00000012#32) := by decide

/-- The digest port after W1: `0x7e42f8ec_980980e9_04b2008f_d98c1dd4`. -/
theorem test_digest_port :
    digest (boundaryState #v[0xd98c1dd4, 0x04b2008f, 0x980980e9, 0x7e42f8ec] 0 .done .noError) =
    0x7e42f8ec980980e904b2008fd98c1dd4#128 := by decide

/-- The rendering of W1's first digest word (R166). -/
theorem test_render_hex : renderHex (le32 0xd98c1dd4#32) = ['d', '4', '1', 'd', '8', 'c', 'd', '9'] := by decide

/-! ## Steps -/

/-- A command placed as a table word runs at the next step: ABORT from reset gives ERROR, SOURCE_ABORT (V-ERR14). -/
theorem test_placed_abort :
    (match step (State.reset.withFetchWord 32 3) with
      | .next t => some (t.phase, t.err)
      | .fault _ => none
      | .refused _ => none) = some (.error, .sourceAbort) := by decide

/-- A round placed as a table word runs at the next step: round 0 on zeros with `M[0] = 0` (95_test_vectors.md section 2.3, the extra vector). -/
theorem test_placed_round :
    (match step (State.reset.withFetchWord 8 0) with
      | .next t => some t.work
      | .fault _ => none
      | .refused _ => none) = some #v[0x00000000, 0xb5523c6b, 0x00000000, 0x00000000] := by decide

/-! ## Witnesses: for each statement with hypotheses, values that meet all of them, at boundary values of each clause -/

theorem witness_DecodeOfEncodeIsIdentity :
    (Instr.chunkFinal1 55#7).wellFormed = true ∧ (Instr.chunkFinal2 56#7).wellFormed = true ∧ (Instr.chunkFinal2 63#7).wellFormed = true
    ∧ (Instr.chunkBadlen 65#7).wellFormed = true ∧ (Instr.roundI 15#4).wellFormed = true := by decide

theorem witness_EncodeOfDecodeIsIdentity :
    decode (.command 0x000003f2#32) = .ok (.chunkFinal2 63#7) ∧ decode (.round 63#6) = .ok (.roundI 15#4) := by decide

theorem witness_LegalWordsDecodeAndOthersAreRejected :
    (0x00000412#32).extractLsb' 0 4 = 0x2#4 ∧ (0x00000412#32).extractLsb' 11 21 = 0#21 ∧ 64 < ((0x00000412#32).extractLsb' 4 7).toNat
    ∧ State.reset.phase = .absorbing := by decide

theorem witness_ChunkLengthSelectsTheRow :
    (64#7).toNat = 64 ∧ (0#7).toNat ≤ 55 ∧ (55#7).toNat ≤ 55 ∧ (56 ≤ (56#7).toNat ∧ (56#7).toNat ≤ 63)
    ∧ (56 ≤ (63#7).toNat ∧ (63#7).toNat ≤ 63) ∧ 65 ≤ (65#7).toNat ∧ 65 ≤ (127#7).toNat := by decide

theorem witness_RoundIndexSelectsRoundAndNoCommandIsARound :
    (15#6).toNat < 16 ∧ (16 ≤ (16#6).toNat ∧ (16#6).toNat < 32) ∧ (16 ≤ (31#6).toNat ∧ (31#6).toNat < 32)
    ∧ (32 ≤ (32#6).toNat ∧ (32#6).toNat < 48) ∧ (32 ≤ (47#6).toNat ∧ (47#6).toNat < 48) ∧ 48 ≤ (48#6).toNat
    ∧ decodeCommand 0x00000002#32 = .ok (.chunkFinal1 0#7) := by decide

theorem witness_AssembledLinesHaveTheirWordsAndLanes :
    (List.replicate 64 (0x61 : Byte)).length = 64 ∧ 64 ≤ 64 ∧ (List.replicate 3 (0x61 : Byte)).length ≤ 64 ∧ 63 < 64 := by decide

theorem witness_AbsorbCountsAndCompresses :
    State.reset.phase = .absorbing ∧ (boundaryState afterAbc 24 .done .noError).phase = .done
    ∧ (boundaryState iv 0 .error .sequence).phase = .error := by decide

theorem witness_Final1PadsOneBlock :
    (0#7).toNat ≤ 55 ∧ (55#7).toNat ≤ 55 ∧ (boundaryState afterOneBlock 512 .absorbing .noError).phase = .absorbing
    ∧ (boundaryState afterAbc 24 .done .noError).phase = .done ∧ (boundaryState iv 0 .error .sequence).phase = .error := by decide

theorem witness_Final2PadsTwoBlocks :
    (56 ≤ (56#7).toNat ∧ (56#7).toNat ≤ 63) ∧ (56 ≤ (63#7).toNat ∧ (63#7).toNat ≤ 63)
    ∧ (boundaryState afterOneBlock 512 .absorbing .noError).phase = .absorbing
    ∧ (boundaryState afterAbc 24 .done .noError).phase = .done ∧ (boundaryState iv 0 .error .sequence).phase = .error := by decide

theorem witness_AbortEntersSourceAbort :
    State.reset.phase ≠ .error ∧ (boundaryState afterAbc 24 .done .noError).phase ≠ .error
    ∧ (boundaryState iv 0 .error .sequence).phase = .error := by decide

theorem witness_BadLengthEntersError :
    65 ≤ (65#7).toNat ∧ 65 ≤ (127#7).toNat ∧ State.reset.phase = .absorbing
    ∧ (boundaryState afterAbc 24 .done .noError).phase = .done ∧ (boundaryState iv 0 .error .sequence).phase = .error := by decide

/-- An unused operation, INIT with a length, a CHUNK with a reserved bit; in ABSORBING and in DONE. -/
theorem witness_IllegalWordEntersError :
    (0x00000000#32 ≠ 0x00000001#32 ∧ 0x00000000#32 ≠ 0x00000003#32
      ∧ ¬ ((0x00000000#32).extractLsb' 0 4 = 0x2#4 ∧ (0x00000000#32).extractLsb' 11 21 = 0#21))
    ∧ (0x00000011#32 ≠ 0x00000001#32 ∧ 0x00000011#32 ≠ 0x00000003#32
      ∧ ¬ ((0x00000011#32).extractLsb' 0 4 = 0x2#4 ∧ (0x00000011#32).extractLsb' 11 21 = 0#21))
    ∧ (0x00000802#32 ≠ 0x00000001#32 ∧ 0x00000802#32 ≠ 0x00000003#32
      ∧ ¬ ((0x00000802#32).extractLsb' 0 4 = 0x2#4 ∧ (0x00000802#32).extractLsb' 11 21 = 0#21))
    ∧ State.reset.phase ≠ .error ∧ (boundaryState afterAbc 24 .done .noError).phase ≠ .error := by decide

theorem witness_ChunkAfterTheEndRaisesSequence :
    ((0x00000002#32).extractLsb' 0 4 = 0x2#4 ∧ (0x00000002#32).extractLsb' 11 21 = 0#21)
    ∧ ((0x000007f2#32).extractLsb' 0 4 = 0x2#4 ∧ (0x000007f2#32).extractLsb' 11 21 = 0#21)
    ∧ (boundaryState afterAbc 24 .done .noError).phase = .done := by decide

theorem witness_CarriedOutChunkCountsItsBits :
    ((0x00000402#32).extractLsb' 0 4 = 0x2#4 ∧ (0x00000402#32).extractLsb' 11 21 = 0#21)
    ∧ ((0x00000412#32).extractLsb' 0 4 = 0x2#4 ∧ (0x00000412#32).extractLsb' 11 21 = 0#21)
    ∧ (State.reset.phase = .absorbing ∧ ((0x00000402#32).extractLsb' 4 7).toNat ≤ 64)
    ∧ 64 < ((0x00000412#32).extractLsb' 4 7).toNat ∧ (boundaryState afterAbc 24 .done .noError).phase ≠ .absorbing := by decide

/-- CHUNK 1: the operands differ in lanes 1 and 2 only. -/
theorem witness_LanesBeyondTheChunkHaveNoEffect :
    (0x00000012#32).extractLsb' 0 4 = 0x2#4 ∧ (0x00000012#32).extractLsb' 11 21 = 0#21
    ∧ (∀ k, k < ((0x00000012#32).extractLsb' 4 7).toNat → (0x61#512).extractLsb' (8 * k) 8 = (0xffff61#512).extractLsb' (8 * k) 8)
    ∧ 0x61#512 ≠ 0xffff61#512 := by decide +kernel

/-- ABORT in ABSORBING, INIT in ERROR, CHUNK.FINAL1 in ABSORBING. -/
theorem witness_CommandFrame :
    Instr.abort.isRound = false ∧ exec .abort State.reset = .next (boundaryState iv 0 .error .sourceAbort)
    ∧ (Instr.chunkBadlen 65#7).isRound = false
    ∧ exec (.chunkBadlen 65#7) State.reset = .next (boundaryState iv 0 .error .badLength)
    ∧ exec .init (boundaryState iv 0 .error .sourceAbort) = .next State.reset
    ∧ (∃ t, exec (.chunkFinal1 0#7) State.reset = .next t ∧ t.phase ≠ .error) :=
  ⟨rfl, rfl, rfl, rfl, rfl, ⟨_, rfl, by decide⟩⟩

theorem witness_CommandsTakeEffectInOrder :
    ({ State.reset with inputs := hostOf [(0x00000000#32, 0), (0x00000001#32, 0)] } : State).busy = false
    ∧ (State.reset.arch = State.reset.arch.commandSteps [(0x00000000#32, 0), (0x00000001#32, 0)] ∧ State.reset.busy = false) := by decide +kernel

theorem witness_ErrorsArePrecise :
    acceptCommand 0x00000000#32 0 State.reset = .next (boundaryState iv 0 .error .illegalCommand) ∧ State.reset.phase ≠ .error
    ∧ (boundaryState iv 0 .error .illegalCommand).phase = .error :=
  ⟨rfl, by decide, rfl⟩

theorem witness_ErrorIsSticky :
    (boundaryState iv 0 .error .illegalCommand).phase = .error ∧ 0x00000002#32 ≠ 0x00000001#32
    ∧ (boundaryState iv 0 .error .illegalCommand).cmdLatch = 0 ∧ (boundaryState iv 0 .error .illegalCommand).dataLatch = 0 :=
  ⟨rfl, by decide, rfl, rfl⟩

/-- The three ways out of ERROR: reset, INIT as a transaction, INIT edge by edge. -/
theorem witness_OnlyInitAndResetLeaveError :
    step { boundaryState iv 0 .error .sequence with inputs := [.edge true false 0 0] } = .next State.reset
    ∧ step { boundaryState iv 0 .error .sequence with inputs := [.command 0x00000001#32 0] } = .next State.reset
    ∧ step { boundaryState iv 0 .error .sequence with busy := true, stage := .settled, left := 1, cmdLatch := 0x00000001#32 }
      = .next State.reset :=
  ⟨rfl, rfl, rfl⟩

/-- A CHUNK.FINAL2 in its first block, in ABSORBING. -/
def firstBlockState : State :=
  { State.reset with busy := true, stage := .firstRounds, cmdLatch := 0x00000382#32, left := 2 }

/-- A word being ignored, in DONE, with one edge to go: its outcome is SEQUENCE. -/
def doneBusyState : State :=
  { boundaryState afterAbc 24 .done .noError with busy := true, stage := .settled, cmdLatch := 0x00000002#32, left := 1 }

theorem doneBusyState_inv : Inv doneBusyState :=
  ⟨by decide, by decide, by decide, by decide, by decide, by simp [doneBusyState], by simp [doneBusyState]⟩

/-- A step that keeps H, and the reset edge, which does not. -/
theorem witness_DigestIsImmutableInDone :
    Inv doneBusyState ∧ doneBusyState.phase = .done ∧ step doneBusyState = .next (boundaryState afterAbc 24 .error .sequence)
    ∧ Inv { doneBusyState with inputs := [.edge true false 0 0] }
    ∧ step { doneBusyState with inputs := [.edge true false 0 0] } = .next State.reset :=
  ⟨doneBusyState_inv, rfl, rfl, { doneBusyState_inv with }, rfl⟩

theorem firstBlockState_inv : Inv firstBlockState :=
  ⟨by decide, by decide, by decide, by decide, by decide, fun _ => ⟨56#7, by decide⟩, by simp [firstBlockState]⟩

theorem witness_EveryStepKeepsTheInvariant : Inv firstBlockState ∧ ∃ t, step firstBlockState = .next t :=
  ⟨firstBlockState_inv, ⟨_, rfl⟩⟩

theorem witness_HashGivesTheDigestOfTheMessage :
    ({ State.reset with inputs := hostOf (hashCommands [0x61]) } : State).busy = false
    ∧ (hashCommands [0x61]).length = 2 := by decide

/-- Two boundary states that differ in the working registers and RC. -/
theorem witness_TransientStateIsNeverObserved :
    ∃ s s' : State, AtBoundary s ∧ AtBoundary s' ∧ s ≠ s' ∧ s.arch = s'.arch ∧ s.inputs = s'.inputs
      ∧ runSteps 1 s = .next (boundaryState iv 0 .error .sourceAbort) :=
  ⟨{ State.reset with inputs := [.command 0x00000003#32 0] },
    { State.reset with inputs := [.command 0x00000003#32 0], work := #v[1, 2, 3, 4], rc := 5 },
    ⟨rfl, rfl, rfl⟩, ⟨rfl, rfl, rfl⟩, by decide, rfl, rfl, rfl⟩

theorem witness_StepRunsThePresentedCommand :
    ({ State.reset with inputs := [.command 0x00000402#32 0] } : State).busy = false
    ∧ decodeCommand 0x00000402#32 = .ok .chunkAbsorb := by decide

/-- The first and the last round of either block. -/
theorem witness_StepRunsTheRoundOfTheCounter :
    ∀ stage ∈ [Stage.firstRounds, Stage.lastRounds], ∀ i ∈ [62#6, 63#6],
      let s : State := { firstBlockState with stage := stage, rc := i }
      s.busy = true ∧ (∀ valid w data rest, s.inputs ≠ .edge true valid w data :: rest) ∧ ∃ t, exec (decodeRound s.rc) s = .next t := by
  intro stage _ i _
  refine ⟨rfl, by simp [firstBlockState, State.reset], ?_⟩
  cases h : decodeRound i <;> exact ⟨_, rfl⟩

theorem witness_PlacedWordIsRunNext :
    (decodeTableWord 32 0x3f2 = some (.chunkFinal2 63#7) ∧ 8 < 32) ∧ (decodeTableWord 8 0x3f = some (.roundI 15#4) ∧ 8 ≤ 8) := by decide

theorem witness_ResetEdgeGivesTheResetState :
    ({ firstBlockState with inputs := [.edge true true 0x00000002#32 0] } : State).inputs = .edge true true 0x00000002#32 0 :: [] := rfl

/-- A ready edge; a held command while BUSY = 1; an edge with a command while BUSY = 1, in a micro-operation and at the edge where BUSY
falls; an edge without a command; a reset edge. -/
theorem witness_AcceptanceAtAReadyEdge :
    (cmdReady { State.reset with inputs := [.edge false true 0x00000032#32 0x636261#512] } = true
      ∧ (0x00000032#32).extractLsb' 0 4 = 0x2#4 ∧ (0x00000032#32).extractLsb' 11 21 = 0#21)
    ∧ (cmdReady { firstBlockState with inputs := [.command 0x00000001#32 0] } = false
      ∧ ∃ t, step { firstBlockState with inputs := [.command 0x00000001#32 0] } = .next t)
    ∧ (∀ s ∈ [firstBlockState, doneBusyState], ({ s with inputs := [.edge false true 0x00000001#32 0] } : State).busy = true)
    ∧ (State.reset.busy = false
      ∧ ({ State.reset with inputs := [.edge false false 0x00000001#32 0] } : State).inputs = .edge false false 0x00000001#32 0 :: [])
    ∧ ({ State.reset with inputs := [.edge true true 0x00000001#32 0] } : State).inputs = .edge true true 0x00000001#32 0 :: [] :=
  ⟨by decide, ⟨by decide, _, rfl⟩, by decide, ⟨rfl, rfl⟩, rfl⟩

theorem witness_LatencyOfEachCommand :
    0x00000002#32 ≠ 0x00000001#32 ∧ Phase.done ≠ .absorbing ∧ decodeCommand 0x00000402#32 = .ok .chunkAbsorb
    ∧ decodeCommand 0x00000372#32 = .ok (.chunkFinal1 55#7) ∧ decodeCommand 0x00000382#32 = .ok (.chunkFinal2 56#7)
    ∧ decodeCommand 0x00000003#32 = .ok .abort ∧ decodeCommand 0x00000412#32 = .ok (.chunkBadlen 65#7)
    ∧ decodeCommand 0x00000000#32 = .error .reservedOp := by decide

/-- The last edge of a command, with a host that gives one more; a round; an accepting edge with another edge after it. -/
theorem witness_BusyLastsTheLatency :
    (let s : State := { doneBusyState with inputs := [.edge false true 0x00000001#32 0] };
      s.busy = true ∧ s.stage = .settled ∧ 1 ≤ s.left ∧ (∀ i ∈ s.inputs, i.isEdgeWithoutReset = true) ∧ 0 < s.left)
    ∧ (firstBlockState.busy = true ∧ firstBlockState.stage ≠ .settled ∧ firstBlockState.stage ≠ .idle
      ∧ ∀ valid w data rest, firstBlockState.inputs ≠ .edge true valid w data :: rest)
    ∧ (State.reset.busy = false ∧ (∀ i ∈ [Input.edge false false 0 0], i.isEdgeWithoutReset = true) ∧ 0 < 1
      ∧ 1 < 1 + (disposition .absorbing 0x00000382#32).microOps + (disposition .absorbing 0x00000382#32).latency) := by
  refine ⟨by decide, ⟨rfl, by decide, by decide, by simp [firstBlockState, State.reset]⟩, rfl, by decide, by decide, ?_⟩
  rw [show disposition .absorbing 0x00000382#32 = .final2 56#7 by decide]
  simp only [Disposition.microOps]
  omega

theorem witness_EveryCommandCompletes : Inv firstBlockState ∧ NoReset firstBlockState ∧ firstBlockState.busy = true :=
  ⟨firstBlockState_inv, by simp [NoReset, firstBlockState, State.reset], rfl⟩

theorem witness_OutputsWhileBusy :
    firstBlockState.busy = true ∧ ∃ t, step firstBlockState = .next t ∧ t.busy = true := ⟨rfl, _, rfl, rfl⟩

theorem witness_EdgeByEdgeRunIsTheTransaction :
    AtBoundary { State.reset with inputs := [.edge false true 0x000003f2#32 0x636261#512] }
    ∧ ({ State.reset with inputs := [.edge false true 0x000003f2#32 0x636261#512] } : State).inputs
      = [.edge false true 0x000003f2#32 0x636261#512] :=
  ⟨⟨rfl, rfl, rfl⟩, rfl⟩

theorem witness_IdleEngineHoldsItsState :
    State.reset.busy = false ∧ State.reset.inputs = []
    ∧ ({ State.reset with inputs := [.edge false false 0x00000001#32 0] } : State).inputs = .edge false false 0x00000001#32 0 :: [] :=
  ⟨rfl, rfl, rfl⟩

theorem witness_RoundsAreBijections :
    (Instr.roundF 0#4).isRound = true ∧ (Instr.roundG 0#4).isRound = true ∧ (Instr.roundH 15#4).isRound = true
    ∧ (Instr.roundI 15#4).isRound = true := by decide

theorem witness_RoundFunctionsBitByBit :
    (15#6).toNat ≤ 15 ∧ (16 ≤ (16#6).toNat ∧ (16#6).toNat ≤ 31) ∧ (16 ≤ (31#6).toNat ∧ (31#6).toNat ≤ 31)
    ∧ (32 ≤ (32#6).toNat ∧ (32#6).toNat ≤ 47) ∧ (32 ≤ (47#6).toNat ∧ (47#6).toNat ≤ 47) ∧ 48 ≤ (48#6).toNat
    ∧ 31 < 32 := by decide

theorem witness_EveryGroupReadsEveryMessageWordOnce :
    (15#6).toNat ≤ 15 ∧ (16 ≤ (16#6).toNat ∧ (16#6).toNat ≤ 31) ∧ (16 ≤ (31#6).toNat ∧ (31#6).toNat ≤ 31)
    ∧ (32 ≤ (32#6).toNat ∧ (32#6).toNat ≤ 47) ∧ (32 ≤ (47#6).toNat ∧ (47#6).toNat ≤ 47) ∧ 48 ≤ (63#6).toNat := by
  decide

theorem witness_PaddedBlockLayout : (0 ≤ 55 ∧ 55 ≤ 55 ∧ 63 < 64) ∧ (56 ≤ 56 ∧ 56 ≤ 63) ∧ (56 ≤ 63 ∧ 63 ≤ 63) := by decide

theorem witness_LengthFieldInMessageWords : 0 ≤ 55 ∧ 55 ≤ 55 := by decide

theorem witness_DigestPortBytes :
    ((boundaryState afterAbc 24 .done .noError).phase = .done ∧ (boundaryState afterAbc 24 .done .noError).busy = false)
    ∧ State.reset.phase ≠ .done ∧ doneBusyState.busy = true := by decide

end Sys2Proof.Tests
end

