-- ==== Sys2Proof/Proofs/AcceptedCommand.lean ====
section
/-! What an accepted command does to the tuple `(H, L, PHASE, ERR)`: the command step of R150. The cases are those of the
command word: INIT, ABORT, CHUNK with any length, illegal. -/

namespace Sys2Proof.Machine

/-- The four kinds of a command word, and what the decoder makes of each (R76). -/
theorem decodeCommand_cases (w : Word) :
    (w = 0x00000001#32 ∧ decodeCommand w = .ok .init)
    ∨ (w = 0x00000003#32 ∧ decodeCommand w = .ok .abort)
    ∨ (opField w = 0x2#4 ∧ reservedField w = 0#21 ∧ decodeCommand w = .ok (chunkOfLength (lengthField w)))
    ∨ (legal w = false ∧ ∃ r, decodeCommand w = .error r) := by
  by_cases hres : reservedField w = 0#21
  · obtain ⟨n, op, rfl⟩ : ∃ n op, w = commandWord n op := ⟨_, _, (commandWord_of_fields hres).symm⟩
    by_cases hchunk : op = 0x2#4
    · subst hchunk
      exact .inr (.inr (.inl (by simp [decodeCommand_commandWord])))
    by_cases hinit : commandWord n op = 0x00000001#32
    · exact .inl ⟨hinit, hinit ▸ rfl⟩
    by_cases habort : commandWord n op = 0x00000003#32
    · exact .inr (.inl ⟨habort, habort ▸ rfl⟩)
    refine .inr (.inr (.inr ⟨by simp [legal, hinit, habort, hchunk], ?_⟩))
    have hn1 : op = 0x1#4 → n ≠ 0#7 := by rintro rfl rfl; exact hinit rfl
    have hn3 : op = 0x3#4 → n ≠ 0#7 := by rintro rfl rfl; exact habort rfl
    rw [decodeCommand_commandWord, if_neg hchunk]
    split
    · next h => exact ⟨_, if_neg (hn1 h)⟩
    · split
      · next h => exact ⟨_, if_neg (hn3 h)⟩
      · exact ⟨_, rfl⟩
  · have hne (v : Word) (hv : reservedField v = 0#21) : w ≠ v := fun h => hres (h ▸ hv)
    refine .inr (.inr (.inr ⟨?_, .reservedBits, if_pos hres⟩))
    simp [legal, hres, hne 0x00000001#32 (by decide), hne 0x00000003#32 (by decide)]

/-- What a CHUNK of length `n` does when the phase lets it through (R155 to R157, R203). -/
def chunkEffect (n : BitVec 7) : State → State :=
  if n.toNat = 64 then absorbEffect
  else if n.toNat ≤ 55 then final1Effect n
  else if n.toNat ≤ 63 then final2Effect n
  else enterError .badLength

theorem exec_chunkOfLength (n : BitVec 7) (s : State) :
    exec (chunkOfLength n) s = .next (whenAbsorbing (chunkEffect n) s) := by
  unfold chunkOfLength chunkEffect
  split
  · rfl
  · split
    · rfl
    · split <;> rfl

/-- An accepted CHUNK runs its effect on the captured operand (R13, R150). -/
theorem acceptCommand_chunk {w : Word} (x : Operand) (s : State) (hop : opField w = 0x2#4)
    (hres : reservedField w = 0#21) :
    acceptCommand w x s = .next (release (whenAbsorbing (chunkEffect (lengthField w)) (capture w x s))) := by
  have hd : decodeCommand w = .ok (chunkOfLength (lengthField w)) := by simp [decodeCommand, hop, hres]
  exact acceptCommand_of_decode hd (exec_chunkOfLength _ _)

@[simp] theorem arch_release (s : State) : (release s).arch = s.arch := rfl

@[simp] theorem arch_capture (w : Word) (x : Operand) (s : State) : (capture w x s).arch = s.arch := rfl

@[simp] theorem arch_enterError (e : ErrCode) (s : State) : (enterError e s).arch = s.arch.enterError e := rfl

@[simp] theorem arch_phase (s : State) : s.arch.phase = s.phase := rfl

/-- The carried-out part of the command step of R150: a CHUNK of length `n` in ABSORBING. -/
def Arch.chunkStep (s : Arch) (n : Nat) (x : Operand) : Arch :=
  if 64 < n then s.enterError .badLength
  else
    let len := s.len + BitVec.ofNat 64 (8 * n)
    if n = 64 then ⟨compress s.h (chunkBytes x 64), len, s.phase, s.err⟩
    else if n ≤ 55 then ⟨compress s.h (pad1 x n len), len, .done, s.err⟩
    else ⟨compress (compress s.h (pad2First x n)) (pad2Second len), len, .done, s.err⟩

theorem arch_chunkEffect (n : BitVec 7) (s : State) :
    (chunkEffect n s).arch = s.arch.chunkStep n.toNat s.dataLatch := by
  unfold chunkEffect Arch.chunkStep
  by_cases hbad : 64 < n.toNat
  · rw [if_neg (by omega), if_neg (by omega), if_neg (by omega), if_pos hbad, arch_enterError]
  rw [if_neg hbad]
  by_cases habsorb : n.toNat = 64
  · rw [if_pos habsorb, if_pos habsorb, habsorb]; simp [absorbEffect, State.arch]
  rw [if_neg habsorb, if_neg habsorb]
  by_cases hfinal1 : n.toNat ≤ 55
  · rw [if_pos hfinal1, if_pos hfinal1]; rfl
  rw [if_neg hfinal1, if_neg hfinal1, if_pos (by omega)]; rfl

theorem commandStep_init (s : Arch) (x : Operand) :
    s.commandStep 0x00000001#32 x = ⟨iv, 0, .absorbing, .noError⟩ := by
  simp [Arch.commandStep, legal]

theorem commandStep_abort (s : Arch) (x : Operand) :
    s.commandStep 0x00000003#32 x = if s.phase = .error then s else s.enterError .sourceAbort := by
  simp [Arch.commandStep, legal]

theorem commandStep_illegal {w : Word} (s : Arch) (x : Operand) (hw : legal w = false) :
    s.commandStep w x = if s.phase = .error then s else s.enterError .illegalCommand := by
  have hinit : w ≠ 0x00000001#32 := by rintro rfl; exact absurd hw (by decide)
  simp [Arch.commandStep, hinit, hw]

theorem commandStep_chunk {w : Word} (s : Arch) (x : Operand) (hop : opField w = 0x2#4)
    (hres : reservedField w = 0#21) :
    s.commandStep w x = match s.phase with
      | .error => s
      | .done => s.enterError .sequence
      | .absorbing => s.chunkStep (lengthField w).toNat x := by
  have hinit : w ≠ 0x00000001#32 := by rintro rfl; exact absurd hop (by decide)
  have habort : w ≠ 0x00000003#32 := by rintro rfl; exact absurd hop (by decide)
  have hlegal : legal w = true := by simp [legal, hop, hres]
  cases hp : s.phase <;> simp [Arch.commandStep, Arch.chunkStep, hinit, habort, hlegal, hp]

/-- An error condition on the tuple (R208, R210). -/
theorem arch_raise (e : ErrCode) (s : State) :
    (raise e s).arch = if s.arch.phase = .error then s.arch else s.arch.enterError e := by
  obtain ⟨hp, hr⟩ | ⟨hp, hr⟩ := raise_cases e s
  · rw [hr, arch_phase, if_neg hp, arch_enterError]
  · rw [hr, arch_phase, if_pos hp]

/-- An accepted command takes the tuple to the command step of R150. -/
theorem acceptCommand_arch {w : Word} {x : Operand} {s t : State} (h : acceptCommand w x s = .next t) :
    t.arch = s.arch.commandStep w x := by
  obtain ⟨rfl, hd⟩ | ⟨rfl, hd⟩ | ⟨hop, hres, -⟩ | ⟨hw, r, hd⟩ := decodeCommand_cases w
  · rw [acceptCommand_of_decode hd (exec_init _)] at h
    rw [← Host.Outcome.next.inj h, commandStep_init]
    rfl
  · rw [acceptCommand_of_decode hd (exec_abort _)] at h
    rw [← Host.Outcome.next.inj h, commandStep_abort, arch_release, arch_raise, arch_capture]
  · have hdata : (capture w x s).dataLatch = x := by simp [samplesData, hop, hres]
    rw [acceptCommand_chunk x s hop hres] at h
    rw [← Host.Outcome.next.inj h, commandStep_chunk s.arch x hop hres, arch_release, arch_phase]
    obtain ⟨hp, he⟩ | ⟨hp, he⟩ | ⟨hp, he⟩ := whenAbsorbing_cases (chunkEffect (lengthField w)) (capture w x s)
    all_goals rw [capture_phase] at hp; rw [he, hp]
    · rw [arch_chunkEffect, hdata, arch_capture]
    · rfl
    · rfl
  · rw [acceptCommand_of_reject hd] at h
    rw [← Host.Outcome.next.inj h, commandStep_illegal s.arch x hw, arch_release, arch_raise, arch_capture]

/-- An effect that keeps BUSY and the host's list keeps them under the phase check too. -/
theorem whenAbsorbing_busy_inputs {f : State → State} (s : State) (hf : (f s).busy = s.busy ∧ (f s).inputs = s.inputs) :
    (whenAbsorbing f s).busy = s.busy ∧ (whenAbsorbing f s).inputs = s.inputs := by
  obtain ⟨-, h⟩ | ⟨-, h⟩ | ⟨-, h⟩ := whenAbsorbing_cases f s <;> rw [h]
  · exact hf
  · exact ⟨rfl, rfl⟩
  · exact ⟨rfl, rfl⟩

theorem raise_busy_inputs (e : ErrCode) (s : State) : (raise e s).busy = s.busy ∧ (raise e s).inputs = s.inputs := by
  obtain ⟨-, h⟩ | ⟨-, h⟩ := raise_cases e s <;> rw [h]
  · exact ⟨rfl, rfl⟩
  · exact ⟨rfl, rfl⟩

/-- No instruction writes BUSY or the host's list. -/
theorem exec_busy_inputs {i : Instr} {s t : State} (h : exec i s = .next t) :
    t.busy = s.busy ∧ t.inputs = s.inputs := by
  cases i <;> rw [← Host.Outcome.next.inj h]
  case chunkAbsorb => exact whenAbsorbing_busy_inputs (f := absorbEffect) s (by simp [absorbEffect])
  case chunkFinal1 n => exact whenAbsorbing_busy_inputs (f := final1Effect n) s ⟨rfl, rfl⟩
  case chunkFinal2 n => exact whenAbsorbing_busy_inputs (f := final2Effect n) s ⟨rfl, rfl⟩
  case chunkBadlen n => exact whenAbsorbing_busy_inputs s ⟨rfl, rfl⟩
  case abort => exact raise_busy_inputs .sourceAbort s
  all_goals exact ⟨rfl, rfl⟩

/-- An accepted command leaves BUSY and the host's list to the step around it (log 3). -/
theorem acceptCommand_busy_inputs {w : Word} {x : Operand} {s t : State} (h : acceptCommand w x s = .next t) :
    t.busy = s.busy ∧ t.inputs = s.inputs := by
  cases hd : decodeCommand w with
  | error r =>
    rw [acceptCommand_of_reject hd] at h
    rw [← Host.Outcome.next.inj h]
    simpa using raise_busy_inputs .illegalCommand (capture w x s)
  | ok i =>
    obtain ⟨u, hu⟩ := exec_next i (capture w x s)
    rw [acceptCommand_of_decode hd hu] at h
    rw [← Host.Outcome.next.inj h]
    simpa using exec_busy_inputs hu

end Sys2Proof.Machine
end

