-- ==== Sys2Proof/Proofs/Memory.lean ====
section
/-! The statements about sequences of commands and message words (20_memory.md R53, R60). -/

namespace Sys2Proof.Machine

/-- The next command of an engine that is not busy is one step: the tuple takes the command step of R150, BUSY stays 0, and
the command is off the host's list (R60). -/
theorem step_command {s : State} {w : Word} {x : Operand} {rest : List Input} (hb : s.busy = false)
    (hi : s.inputs = .command w x :: rest) :
    ∃ t, step s = .next t ∧ t.arch = s.arch.commandStep w x ∧ t.busy = false ∧ t.inputs = rest := by
  have hstep : step s = acceptCommand w x { s with inputs := rest } := by
    rw [step_of_no_reset (by simp [hi])]
    simp [idleStep, hi, hb]
  obtain ⟨t, ht⟩ := acceptCommand_next w x { s with inputs := rest }
  obtain ⟨hbusy, hinputs⟩ := acceptCommand_busy_inputs ht
  exact ⟨t, hstep.trans ht, acceptCommand_arch (s := { s with inputs := rest }) ht, hbusy.trans hb, hinputs⟩

/-- As many steps as the host presents commands carry them out, each on the tuple the one before it left (R60). -/
theorem runSteps_hostOf (cmds : List (Word × Operand)) (s : State) (hb : s.busy = false) (hi : s.inputs = hostOf cmds) :
    ∃ t, runSteps cmds.length s = .next t ∧ t.arch = s.arch.commandSteps cmds ∧ t.busy = false ∧ t.inputs = [] := by
  induction cmds generalizing s with
  | nil => exact ⟨s, rfl, rfl, hb, hi⟩
  | cons c cmds ih =>
    obtain ⟨u, hstep, harch, hbusy, hinputs⟩ := step_command (rest := hostOf cmds) hb hi
    obtain ⟨t, hrun, htarch, hend⟩ := ih u hbusy hinputs
    refine ⟨t, (runSteps_succ_of_step hstep).trans hrun, ?_, hend⟩
    rw [htarch, harch]
    rfl

/-- The outputs `status` and `digest` show the tuple and BUSY, and nothing else of the state (R78, R81). -/
theorem status_digest_congr {s t : State} (ha : s.arch = t.arch) (hb : s.busy = t.busy) :
    status s = status t ∧ digest s = digest t := by
  obtain ⟨hh, -, hphase, herr⟩ := Arch.mk.inj ha
  simp [status, digest, digestValid, hh, hphase, herr, hb]

/-- Settles O20, by induction on the list of commands. -/
theorem commandsTakeEffectInOrder : Obligations.CommandsTakeEffectInOrder := by
  intro cmds s hb hi
  obtain ⟨t, hrun, harch, hbusy, hinputs⟩ := runSteps_hostOf cmds s hb hi
  exact ⟨t, hrun, harch, hbusy, hinputs, fun u hu hub =>
    status_digest_congr (harch.trans hu.symm) (hbusy.trans hub.symm)⟩

/-- Settles O47: a message word is `decLE32` of its four bytes. -/
theorem messageWordsAreLittleEndian : Obligations.MessageWordsAreLittleEndian := by
  intro block j
  rw [get_messageWords]
  rfl

end Sys2Proof.Machine
end

