-- ==== Sys2Proof/Proofs/Encoding.lean ====
section
/-! The statements about the command words and the status word (30_encoding.md R74, R76, R78 to R80). -/

namespace Sys2Proof

/-- A command word with its length field shifted into place, the form in which R74's CHUNK words are stated. -/
theorem commandWord_eq_shift (n : BitVec 7) (op : BitVec 4) :
    commandWord n op = (n.setWidth 32 <<< 4) ||| op.setWidth 32 := by
  unfold commandWord
  ext k hk
  simp only [← BitVec.getLsbD_eq_getElem, BitVec.getLsbD_append, BitVec.getLsbD_or, BitVec.getLsbD_shiftLeft,
    BitVec.getLsbD_setWidth]
  by_cases hop : k < 4
  · simp [hop, hk]
  · by_cases hlen : k - 4 < 7
    · simp [hop, hlen, hk, BitVec.getLsbD_of_ge op k (by omega)]
      omega
    · simp [hop, hlen, BitVec.getLsbD_of_ge op k (by omega), BitVec.getLsbD_of_ge n (k - 4) (by omega)]

theorem chunkOfLength_absorb {n : BitVec 7} (h : n.toNat = 64) : chunkOfLength n = .chunkAbsorb := if_pos h

theorem chunkOfLength_final1 {n : BitVec 7} (h : n.toNat ≤ 55) : chunkOfLength n = .chunkFinal1 n := by
  rw [chunkOfLength, if_neg (by omega), if_pos h]

theorem chunkOfLength_final2 {n : BitVec 7} (h : 56 ≤ n.toNat ∧ n.toNat ≤ 63) : chunkOfLength n = .chunkFinal2 n := by
  rw [chunkOfLength, if_neg (by omega), if_neg (by omega), if_pos h.2]

theorem chunkOfLength_badlen {n : BitVec 7} (h : 65 ≤ n.toNat) : chunkOfLength n = .chunkBadlen n := by
  rw [chunkOfLength, if_neg (by omega), if_neg (by omega), if_neg (by omega)]

/-- Settles O4: the word decodes to the row of its length field, and each range of R74 is one row. -/
theorem chunkLengthSelectsTheRow : Obligations.ChunkLengthSelectsTheRow := by
  intro n
  have hd : decodeCommand ((n.setWidth 32 <<< 4) ||| 0x2#32) = .ok (chunkOfLength n) := by
    have hw : (n.setWidth 32 <<< 4) ||| 0x2#32 = commandWord n 0x2#4 := (commandWord_eq_shift n 0x2#4).symm
    rw [hw, decodeCommand_commandWord]
    rfl
  rw [hd]
  exact ⟨fun h => by rw [chunkOfLength_absorb h], fun h => by rw [chunkOfLength_final1 h],
    fun h => by rw [chunkOfLength_final2 h], fun h => by rw [chunkOfLength_badlen h]⟩

/-- A word with OP = 0x2 and RSVD = 0 is the CHUNK of its length (R76). -/
theorem decodeCommand_chunk {w : Word} (hop : opField w = 0x2#4) (hres : reservedField w = 0#21) :
    decodeCommand w = .ok (chunkOfLength (lengthField w)) := by
  simp [decodeCommand, hop, hres]

/-- All four CHUNK rows are encoded with OP = 0x2 and their length. -/
theorem encode_chunkOfLength (n : BitVec 7) : encode (chunkOfLength n) = .command (commandWord n 0x2#4) := by
  unfold chunkOfLength
  split
  · next h => rw [show n = 64#7 from BitVec.eq_of_toNat_eq h]; rfl
  · split
    · rfl
    · split <;> rfl

end Sys2Proof

namespace Sys2Proof.Machine

/-- A command word is the encoding of what it decodes to: each legal word has one meaning (R76). -/
theorem encode_of_decodeCommand {w : Word} {i : Instr} (h : decodeCommand w = .ok i) : encode i = .command w := by
  obtain ⟨rfl, hd⟩ | ⟨rfl, hd⟩ | ⟨hop, hres, hd⟩ | ⟨-, r, hd⟩ := decodeCommand_cases w
  all_goals rw [hd] at h; cases h
  · rfl
  · rfl
  · rw [encode_chunkOfLength, ← hop, commandWord_of_fields hres]

/-- The legality predicate, disjunct by disjunct (R76). -/
theorem legal_iff (w : Word) :
    legal w = true ↔ w = 0x00000001#32 ∨ w = 0x00000003#32 ∨ (opField w = 0x2#4 ∧ reservedField w = 0#21) := by
  simp [legal, or_assoc]

/-- Exactly the legal words decode (R76, R84). -/
theorem decodeCommand_ok_iff_legal (w : Word) : (∃ i, decodeCommand w = .ok i) ↔ legal w = true := by
  obtain ⟨rfl, hd⟩ | ⟨rfl, hd⟩ | ⟨hop, hres, hd⟩ | ⟨hw, r, hd⟩ := decodeCommand_cases w
  · exact ⟨fun _ => rfl, fun _ => ⟨_, hd⟩⟩
  · exact ⟨fun _ => rfl, fun _ => ⟨_, hd⟩⟩
  · exact ⟨fun _ => (legal_iff w).2 (.inr (.inr ⟨hop, hres⟩)), fun _ => ⟨_, hd⟩⟩
  · simp [hw, hd]

/-- A CHUNK with `N > 64` accepted in ABSORBING is refused with BAD_LENGTH (R76, R203). -/
theorem acceptCommand_badLength {w : Word} {s : State} (x : Operand) (hop : opField w = 0x2#4)
    (hres : reservedField w = 0#21) (hn : 64 < (lengthField w).toNat) (hp : s.phase = .absorbing) :
    acceptCommand w x s = .next (release (enterError .badLength (capture w x s))) := by
  have heffect : chunkEffect (lengthField w) = enterError .badLength := by
    rw [chunkEffect, if_neg (by omega), if_neg (by omega), if_neg (by omega)]
  rw [acceptCommand_chunk x s hop hres, heffect, whenAbsorbing_absorbing (by rwa [capture_phase])]

/-- Settles O3: by the four kinds of a command word; that INIT and ABORT have one word each, because a word is the encoding
of what it decodes to. -/
theorem legalWordsDecodeAndOthersAreRejected : Obligations.LegalWordsDecodeAndOthersAreRejected := by
  intro w
  have hinit : decodeCommand w = .ok .init → w = 0x00000001#32 :=
    fun h => (Code.command.inj (encode_of_decodeCommand h)).symm
  have habort : decodeCommand w = .ok .abort → w = 0x00000003#32 :=
    fun h => (Code.command.inj (encode_of_decodeCommand h)).symm
  exact ⟨⟨hinit, fun h => h ▸ rfl⟩, ⟨habort, fun h => h ▸ rfl⟩, fun ⟨hop, hres⟩ => decodeCommand_chunk hop hres,
    legal_iff w, decodeCommand_ok_iff_legal w,
    fun _ data hop hres hn hp => ⟨_, acceptCommand_badLength data hop hres hn hp, rfl, rfl⟩⟩

/-- The status word bit by bit (R78). -/
theorem getLsbD_status (s : State) (k : Nat) :
    (status s).getLsbD k =
      if k < 2 then (phaseCode s.phase).getLsbD k
      else if k = 2 then s.busy
      else if k = 3 then digestValid s
      else (errCode s.err).getLsbD (k - 4) := by
  simp only [status, BitVec.getLsbD_or, BitVec.getLsbD_shiftLeft, BitVec.getLsbD_setWidth, BitVec.getLsbD_ofBool]
  by_cases hphase : k < 2
  · obtain rfl | rfl : k = 0 ∨ k = 1 := by omega
    all_goals simp
  by_cases hbusy : k = 2
  · subst hbusy; simp
  by_cases hvalid : k = 3
  · subst hvalid; simp
  have hphase0 : (phaseCode s.phase).getLsbD k = false := BitVec.getLsbD_of_ge _ _ (by omega)
  have hk : ¬k < 4 ∧ k - 2 ≠ 0 ∧ k - 3 ≠ 0 := by omega
  by_cases herr : k < 7
  · have hk32 : k < 32 ∧ k - 4 < 32 := by omega
    simp [hphase, hbusy, hvalid, hphase0, hk, hk32]
  · have herr0 : (errCode s.err).getLsbD (k - 4) = false := BitVec.getLsbD_of_ge _ _ (by omega)
    simp [hphase, hbusy, hvalid, hphase0, hk, herr0]

/-- Settles O51, from the bits of the status word. -/
theorem statusWordFields : Obligations.StatusWordFields := by
  intro s
  refine ⟨?_, ?_, ?_, ?_, ?_⟩
  · have h : (status s).extractLsb' 0 2 = phaseCode s.phase := by
      ext k hk
      rw [BitVec.getElem_extractLsb', Nat.zero_add, getLsbD_status, if_pos hk, BitVec.getLsbD_eq_getElem]
    rw [h]
    cases s.phase <;> rfl
  · exact getLsbD_status s 2
  · rw [getLsbD_status]; simp [digestValid]
  · have h : (status s).extractLsb' 4 3 = errCode s.err := by
      ext k hk
      rw [BitVec.getElem_extractLsb', getLsbD_status, if_neg (by omega), if_neg (by omega), if_neg (by omega),
        Nat.add_sub_cancel_left, BitVec.getLsbD_eq_getElem]
    rw [h]
    cases s.err <;> rfl
  · ext k hk
    rw [BitVec.getElem_extractLsb', getLsbD_status, if_neg (by omega), if_neg (by omega), if_neg (by omega),
      BitVec.getLsbD_of_ge _ _ (by omega), BitVec.getElem_zero]

end Sys2Proof.Machine
end

