-- ==== Sys2Proof/Proofs/RoundFunctions.lean ====
section
/-! The statements about the round micro-operations (41_round_functions.md R110 to R113), from the round index's group and
position (R82) and the round step (R109). -/

namespace Sys2Proof

/-- The round micro-operation of position `pos` in group `grp` (R82). -/
def roundInstr : Group → BitVec 4 → Instr
  | .f => .roundF
  | .g => .roundG
  | .h => .roundH
  | .i => .roundI

/-- The decoder reads a round index built from its fields back to its micro-operation (R82). -/
@[simp] theorem decodeRound_roundIndex (grp : Group) (pos : BitVec 4) :
    decodeRound (roundIndex grp pos) = roundInstr grp pos := by
  unfold decodeRound
  rw [groupOf_roundIndex, position_roundIndex]
  cases grp <;> rfl

theorem decode_roundIndex (grp : Group) (pos : BitVec 4) :
    decode (.round (roundIndex grp pos)) = .ok (roundInstr grp pos) :=
  congrArg Except.ok (decodeRound_roundIndex grp pos)

/-- The number of a round: sixteen for each group before its own, and its position. -/
theorem toNat_roundIndex (grp : Group) (pos : BitVec 4) :
    (roundIndex grp pos).toNat = 16 * (groupCode grp).toNat + pos.toNat := by
  rw [roundIndex, BitVec.toNat_append, ← Nat.shiftLeft_add_eq_or_of_lt pos.isLt, Nat.shiftLeft_eq, Nat.mul_comm]

end Sys2Proof

namespace Sys2Proof.Machine

/-- A round micro-operation runs its group's function at its own index (R104, R109). -/
theorem exec_roundInstr (grp : Group) (pos : BitVec 4) (s : State) :
    exec (roundInstr grp pos) s = .next (runRound (roundFun grp) (roundIndex grp pos) s) := by
  rw [← decodeRound_roundIndex, exec_decodeRound, groupOf_roundIndex]

/-! The message word of each group's rounds (R105). -/

theorem messageIndex_of_f {i : BitVec 6} (h : groupOf i = .f) : messageIndex i = Fin.ofNat 16 i.toNat := by
  rw [messageIndex, h]

theorem messageIndex_of_g {i : BitVec 6} (h : groupOf i = .g) : messageIndex i = Fin.ofNat 16 (5 * i.toNat + 1) := by
  rw [messageIndex, h]

theorem messageIndex_of_h {i : BitVec 6} (h : groupOf i = .h) : messageIndex i = Fin.ofNat 16 (3 * i.toNat + 5) := by
  rw [messageIndex, h]

theorem messageIndex_of_i {i : BitVec 6} (h : groupOf i = .i) : messageIndex i = Fin.ofNat 16 (7 * i.toNat) := by
  rw [messageIndex, h]

/-- The state after the round of number `n` with function `fn` and message word `m`: `(d, b + rotl(T, S[n]), b, c)` in the
working registers (R109). -/
def afterRound (fn : Word → Word → Word → Word) (n : Nat) (m : Word) (s : State) : State :=
  let t := fn s.work[1] s.work[2] s.work[3] + s.work[0] + krom (BitVec.ofNat 6 n) + m
  { s with work := #v[s.work[3], s.work[1] + rotl t (srom (BitVec.ofNat 6 n)).toNat, s.work[1], s.work[2]] }

/-- A round micro-operation whose round number is `n` and whose message word is `M[j]`. -/
theorem exec_roundInstr_eq_afterRound {grp : Group} {pos : BitVec 4} {n : Nat} {j : Fin 16} (s : State)
    (hn : (roundIndex grp pos).toNat = n) (hj : messageIndex (roundIndex grp pos) = j) :
    exec (roundInstr grp pos) s = .next (afterRound (roundFun grp) n (s.msg.get j) s) := by
  have hi : roundIndex grp pos = BitVec.ofNat 6 n := by simp [← hn]
  rw [exec_roundInstr, ← hj, hi]
  rfl

/-- Settles O41: the four groups are one round step, at the group's function, round number and message word. -/
theorem roundMicroOperations : Obligations.RoundMicroOperations := by
  intro s pos
  have nf : (roundIndex .f pos).toNat = pos.toNat := (toNat_roundIndex .f pos).trans (Nat.zero_add _)
  have ng : (roundIndex .g pos).toNat = 16 + pos.toNat := toNat_roundIndex .g pos
  have nh : (roundIndex .h pos).toNat = 32 + pos.toNat := toNat_roundIndex .h pos
  have ni : (roundIndex .i pos).toNat = 48 + pos.toNat := toNat_roundIndex .i pos
  refine ⟨⟨decode_roundIndex .f pos, decode_roundIndex .g pos, decode_roundIndex .h pos, decode_roundIndex .i pos⟩,
    exec_roundInstr_eq_afterRound s nf ?_, exec_roundInstr_eq_afterRound s ng ?_,
    exec_roundInstr_eq_afterRound s nh ?_, exec_roundInstr_eq_afterRound s ni ?_⟩
  · rw [messageIndex_of_f (groupOf_roundIndex _ _), nf]
  · rw [messageIndex_of_g (groupOf_roundIndex _ _), ng]
  · rw [messageIndex_of_h (groupOf_roundIndex _ _), nh]
  · rw [messageIndex_of_i (groupOf_roundIndex _ _), ni]

end Sys2Proof.Machine
end

