-- ==== Sys2Proof/Proofs/Compress.lean ====
section
/-! The statement about COMPRESS (42_compress.md R132 to R136): a run of round micro-operations is a run of round steps on the
working registers alone, so the chaining registers the addition reads are those of before round 0. -/

namespace Sys2Proof.Machine

/-- COMPRESS is load (R132, R133), the 64 rounds on the working registers (R134), and the chaining addition (R135, R136). -/
theorem compressState_eq_chainState (block : List Byte) (s : State) :
    compressState block s =
      chainState { loadBlock block s with work := rounds (loadBlock block s).msg (loadBlock block s).work } := rfl

/-- Round micro-operations run in order, in any form `run` whose step is `exec` of the decoded round: the list of rounds
turns the working registers by its round steps, and the rest of the state stays (R114). -/
theorem foldl_exec_decodeRound {run : Result → Nat → Result}
    (hrun : ∀ t i, run (.next t) i = exec (decodeRound (BitVec.ofNat 6 i)) t) (l : List Nat) (s : State) :
    l.foldl run (.next s) = .next { s with
      work := l.foldl (fun q i => roundStep (roundFun (groupOf (BitVec.ofNat 6 i))) (BitVec.ofNat 6 i) s.msg q) s.work } := by
  induction l generalizing s with
  | nil => rfl
  | cons i is ih => rw [List.foldl_cons, hrun, exec_decodeRound, ih]; rfl

/-- Settles O46: the rounds leave the loaded state with `rounds` in its working registers, and COMPRESS adds that to H. -/
theorem compressIsTheSixtyFourRounds : Obligations.CompressIsTheSixtyFourRounds := by
  intro s block
  exact ⟨_, foldl_exec_decodeRound (fun _ _ => rfl) (List.range 64) (loadBlock block s), rfl,
    compressState_eq_chainState block s⟩

end Sys2Proof.Machine
end

