-- ==== Sys2Proof/Proofs/Commands.lean ====
section
/-! The statements about the host's commands (43_commands.md R150 to R162, 60_exceptions.md R205): what INIT, ABORT and the CHUNK
rows write, that a carried-out CHUNK counts its bits, and that a CHUNK reads its own data lanes only. -/

namespace Sys2Proof.Machine

/-- Settles O19: the step answers a next state, and the tuple of that state is the command step. -/
theorem acceptedCommandIsThePseudocode : Obligations.AcceptedCommandIsThePseudocode := by
  intro s w data
  obtain ⟨t, ht⟩ := acceptCommand_next w data s
  exact ⟨t, ht, acceptCommand_arch ht⟩

/-! ## Counting (R152) -/

/-- A CHUNK that the phase lets through counts its bits, unless its length is refused (R152, R153). -/
theorem chunkStep_len (s : Arch) (n : Nat) (x : Operand) :
    (s.chunkStep n x).len = if 64 < n then s.len else s.len + BitVec.ofNat 64 (8 * n) := by
  unfold Arch.chunkStep
  split
  · rfl
  · dsimp only
    split
    · rfl
    · split <;> rfl

/-- Counting on L as a number (R152). -/
theorem toNat_add_bits (len : Counter) (n : Nat) :
    (len + BitVec.ofNat 64 (8 * n)).toNat = (len.toNat + 8 * n) % 2 ^ 64 := by
  rw [BitVec.toNat_add, BitVec.toNat_ofNat, Nat.add_mod_mod]

/-- Settles O16: the L of the command step, phase by phase. -/
theorem carriedOutChunkCountsItsBits : Obligations.CarriedOutChunkCountsItsBits := by
  intro s w data hop hres n
  obtain ⟨t, ht⟩ := acceptCommand_next w data s
  have hlen : t.len = (s.arch.commandStep w data).len := congrArg Arch.len (acceptCommand_arch ht)
  rw [commandStep_chunk s.arch data hop hres] at hlen
  refine ⟨t, ht, fun ⟨hp, hn⟩ => ?_, fun hrefused => ?_⟩
  · rw [arch_phase, hp] at hlen
    have hcount : t.len = s.len + BitVec.ofNat 64 (8 * n) :=
      hlen.trans ((chunkStep_len s.arch n data).trans (if_neg (by omega)))
    rw [hcount, toNat_add_bits]
  · rw [arch_phase] at hlen
    cases hp : s.phase <;> rw [hp] at hlen hrefused
    case absorbing =>
      have hn : 64 < n := hrefused.resolve_left (absurd rfl)
      exact hlen.trans ((chunkStep_len s.arch n data).trans (if_pos hn))
    case done => exact hlen
    case error => exact hlen

/-! ## The data lanes (R154)

Two states that differ only in what is captured are one state after `release`. A CHUNK reads of the captured operand only its
own bytes, so it keeps such states together. -/

theorem release_capture (w : Word) (x : Operand) (s : State) : release (capture w x s) = release s := rfl

theorem release_absorbEffect (s : State) :
    release (absorbEffect s) = compressState (chunkBytes s.dataLatch 64) (countBits 64 (release s)) := rfl

theorem release_final1Effect (n : BitVec 7) (s : State) :
    release (final1Effect n s) =
      finish (compressState (pad1 s.dataLatch n.toNat ((release s).len + BitVec.ofNat 64 (8 * n.toNat)))
        (countBits n.toNat (release s))) := rfl

theorem release_final2Effect (n : BitVec 7) (s : State) :
    release (final2Effect n s) =
      finish (compressState (pad2Second ((release s).len + BitVec.ofNat 64 (8 * n.toNat)))
        (compressState (pad2First s.dataLatch n.toNat) (countBits n.toNat (release s)))) := rfl

theorem release_enterError (e : ErrCode) (s : State) : release (enterError e s) = enterError e (release s) := rfl

/-- The effect of a CHUNK on what is left after it depends on the captured operand only by the chunk's own bytes (R154). -/
theorem release_chunkEffect_congr {n : BitVec 7} {s t : State} (hrest : release s = release t)
    (hbytes : chunkBytes s.dataLatch n.toNat = chunkBytes t.dataLatch n.toNat) :
    release (chunkEffect n s) = release (chunkEffect n t) := by
  unfold chunkEffect
  split
  · next habsorb =>
    rw [habsorb] at hbytes
    rw [release_absorbEffect, release_absorbEffect, hbytes, hrest]
  split
  · rw [release_final1Effect, release_final1Effect, hrest, pad1, pad1, hbytes]
  split
  · rw [release_final2Effect, release_final2Effect, hrest, pad2First, pad2First, hbytes]
  · rw [release_enterError, release_enterError, hrest]

/-- The phase check of a CHUNK reads nothing that is captured (R150). -/
theorem release_whenAbsorbing_congr {f : State → State} {s t : State} (hrest : release s = release t)
    (hf : release (f s) = release (f t)) : release (whenAbsorbing f s) = release (whenAbsorbing f t) := by
  have hphase : s.phase = t.phase := by simpa using congrArg State.phase hrest
  cases hp : t.phase <;> rw [hp] at hphase
  · rwa [whenAbsorbing_absorbing hphase, whenAbsorbing_absorbing hp]
  · rw [whenAbsorbing_done hphase, whenAbsorbing_done hp, release_enterError, release_enterError, hrest]
  · rwa [whenAbsorbing_error hphase, whenAbsorbing_error hp]

/-- Settles O17: the two captured states differ in what is captured only, and agree on the chunk's own bytes. -/
theorem lanesBeyondTheChunkHaveNoEffect : Obligations.LanesBeyondTheChunkHaveNoEffect := by
  intro s w data data' hop hres hlanes
  have hcaptured (x : Operand) : (capture w x s).dataLatch = x :=
    if_pos (by rw [samplesData_eq, decide_eq_true ⟨hop, hres⟩])
  have hrest : release (capture w data s) = release (capture w data' s) := by rw [release_capture, release_capture]
  have heffect : release (chunkEffect (lengthField w) (capture w data s))
      = release (chunkEffect (lengthField w) (capture w data' s)) := by
    refine release_chunkEffect_congr hrest ?_
    rw [hcaptured, hcaptured]
    exact chunkBytes_congr hlanes
  refine ⟨_, acceptCommand_chunk data s hop hres, ?_⟩
  rw [acceptCommand_chunk data' s hop hres, release_whenAbsorbing_congr hrest heffect]

/-! ## The rows (R151, R155 to R157, R162) -/

/-- Settles O8: INIT has one word, and `initialise` is what R151 writes. -/
theorem initWritesTheInitialState : Obligations.InitWritesTheInitialState := by
  refine ⟨fun w => ?_, exec_init⟩
  obtain ⟨hinit, -⟩ := legalWordsDecodeAndOthersAreRejected w
  exact hinit

/-- Settles O12: ABORT has one word, and its error condition is ignored in ERROR alone. -/
theorem abortEntersSourceAbort : Obligations.AbortEntersSourceAbort := by
  refine ⟨fun w => ?_, fun s => ?_⟩
  · obtain ⟨-, habort, -⟩ := legalWordsDecodeAndOthersAreRejected w
    exact habort
  · rw [exec_abort]
    obtain ⟨hp, hr⟩ | ⟨hp, hr⟩ := raise_cases .sourceAbort s
    · exact ⟨fun _ => congrArg _ hr, fun h => absurd h hp⟩
    · exact ⟨fun h => absurd hp h, fun _ => congrArg _ hr⟩

/-- A CHUNK by its phase: its own effect in ABSORBING, SEQUENCE in DONE, nothing in ERROR (R150, R204, R208). -/
theorem whenAbsorbing_by_phase (f : State → State) (s : State) :
    (s.phase = .absorbing → whenAbsorbing f s = f s)
    ∧ (s.phase = .done → whenAbsorbing f s = { s with phase := .error, err := .sequence })
    ∧ (s.phase = .error → whenAbsorbing f s = s) :=
  ⟨whenAbsorbing_absorbing, whenAbsorbing_done, whenAbsorbing_error⟩

/-- What a carried-out CHUNK.ABSORB writes (R155). -/
theorem absorbEffect_eq (s : State) :
    absorbEffect s = { s with
      len := s.len + 512
      h := compress s.h (chunkBytes s.dataLatch 64)
      msg := messageWords (chunkBytes s.dataLatch 64)
      work := rounds (messageWords (chunkBytes s.dataLatch 64)) s.h } := by
  simp [absorbEffect, compressState, countBits]

/-- Settles O9: the phase check, and the effect of a full chunk. -/
theorem absorbCountsAndCompresses : Obligations.AbsorbCountsAndCompresses := by
  refine ⟨by decide, fun s => ?_⟩
  obtain ⟨habsorbing, hdone, herror⟩ := whenAbsorbing_by_phase absorbEffect s
  rw [exec_chunkAbsorb]
  rw [absorbEffect_eq] at habsorbing
  exact ⟨fun h => ⟨_, _, congrArg _ (habsorbing h)⟩, fun h => congrArg _ (hdone h), fun h => congrArg _ (herror h)⟩

/-- Settles O10: the row of the length, the phase check, and the effect of a final chunk with one block. -/
theorem final1PadsOneBlock : Obligations.Final1PadsOneBlock := by
  intro s n hn
  obtain ⟨-, hdecode, -⟩ := chunkLengthSelectsTheRow n
  obtain ⟨habsorbing, hdone, herror⟩ := whenAbsorbing_by_phase (final1Effect n) s
  rw [exec_chunkFinal1]
  exact ⟨hdecode hn, fun h => ⟨_, _, congrArg _ (habsorbing h)⟩, fun h => congrArg _ (hdone h),
    fun h => congrArg _ (herror h)⟩

/-- Settles O11: the row of the length, the phase check, and the effect of a final chunk with two blocks. -/
theorem final2PadsTwoBlocks : Obligations.Final2PadsTwoBlocks := by
  intro s n hlow hhigh
  obtain ⟨-, -, hdecode, -⟩ := chunkLengthSelectsTheRow n
  obtain ⟨habsorbing, hdone, herror⟩ := whenAbsorbing_by_phase (final2Effect n) s
  rw [exec_chunkFinal2]
  exact ⟨hdecode ⟨hlow, hhigh⟩, fun h => ⟨_, _, congrArg _ (habsorbing h)⟩, fun h => congrArg _ (hdone h),
    fun h => congrArg _ (herror h)⟩

end Sys2Proof.Machine
end

