-- ==== Sys2Proof/Proofs/Exceptions.lean ====
section
/-! The statements about errors (60_exceptions.md R202 to R209): what raises each error, what error entry leaves unchanged, that
ERROR ignores every command but INIT, and that INIT and reset are the only ways out of it. -/

namespace Sys2Proof.Machine

/-! ## What raises an error (R202 to R204) -/

/-- Where the command step of R150 is error entry, the accepted command enters ERROR with that code and keeps H and L (R207). -/
theorem acceptCommand_of_commandStep_enterError {w : Word} {x : Operand} {s : State} {e : ErrCode}
    (h : s.arch.commandStep w x = s.arch.enterError e) :
    ∃ t, acceptCommand w x s = .next t ∧ t.phase = .error ∧ t.err = e ∧ t.h = s.h ∧ t.len = s.len := by
  obtain ⟨t, ht⟩ := acceptCommand_next w x s
  obtain ⟨hh, hlen, hphase, herr⟩ := Arch.mk.inj ((acceptCommand_arch ht).trans h)
  exact ⟨t, ht, hphase, herr, hh, hlen⟩

/-- Settles O14: the command step of R150 on an illegal word. -/
theorem illegalWordEntersError : Obligations.IllegalWordEntersError := by
  intro s w data hinit habort hchunk hp
  have hw : legal w = false :=
    Bool.eq_false_iff.mpr fun h => ((legal_iff w).1 h).elim hinit fun h => h.elim habort hchunk
  apply acceptCommand_of_commandStep_enterError
  rw [commandStep_illegal s.arch data hw, arch_phase, if_neg hp]

/-- Settles O15: the command step of R150 on a CHUNK in DONE. -/
theorem chunkAfterTheEndRaisesSequence : Obligations.ChunkAfterTheEndRaisesSequence := by
  intro s w data hop hres hp
  apply acceptCommand_of_commandStep_enterError
  rw [commandStep_chunk s.arch data hop hres, arch_phase, hp]

/-- Settles O13: the row of the length, the phase check, and error entry as the effect. -/
theorem badLengthEntersError : Obligations.BadLengthEntersError := by
  intro s n hn
  obtain ⟨-, -, -, hdecode⟩ := chunkLengthSelectsTheRow n
  obtain ⟨habsorbing, hdone, herror⟩ := whenAbsorbing_by_phase (enterError .badLength) s
  rw [exec_chunkBadlen]
  exact ⟨hdecode hn, fun h => congrArg _ (habsorbing h), fun h => congrArg _ (hdone h), fun h => congrArg _ (herror h)⟩

/-! ## How an accepted command can end (R150, R207, R208) -/

/-- A CHUNK that the phase lets through is refused for its length, or is carried out and ends outside ERROR (R155 to R157, R203). -/
theorem chunkEffect_cases (n : BitVec 7) {s : State} (hp : s.phase = .absorbing) :
    chunkEffect n s = enterError .badLength s ∨ (chunkEffect n s).phase ≠ .error := by
  unfold chunkEffect
  split
  · exact .inr (by simp [absorbEffect, hp])
  split
  · exact .inr (by simp [final1Effect])
  split
  · exact .inr (by simp [final2Effect])
  · exact .inl rfl

/-- An error condition that an accepted word meets: error entry outside ERROR, nothing in ERROR (R207, R208). -/
theorem release_raise_capture_cases (e : ErrCode) (w : Word) (x : Operand) (s : State) :
    (s.phase ≠ .error ∧ release (raise e (capture w x s)) = release (enterError e s))
    ∨ (s.phase = .error ∧ release (raise e (capture w x s)) = release s) := by
  obtain ⟨hp, hr⟩ | ⟨hp, hr⟩ := raise_cases e (capture w x s) <;> rw [hr]
  · exact .inl ⟨hp, rfl⟩
  · exact .inr ⟨hp, rfl⟩

/-- The four ways an accepted word can end: it is INIT; it is ignored, in ERROR; it enters ERROR and writes nothing else; it is a
CHUNK carried out, in ABSORBING (R150). -/
theorem acceptCommand_cases (w : Word) (x : Operand) (s : State) :
    (w = 0x00000001#32 ∧ acceptCommand w x s = .next (release (initialise s)))
    ∨ (s.phase = .error ∧ acceptCommand w x s = .next (release s))
    ∨ (s.phase ≠ .error ∧ ∃ e, e ≠ .noError ∧ acceptCommand w x s = .next (release (enterError e s)))
    ∨ (s.phase = .absorbing ∧ ∃ t, acceptCommand w x s = .next t ∧ t.phase ≠ .error) := by
  obtain ⟨rfl, hd⟩ | ⟨rfl, hd⟩ | ⟨hop, hres, -⟩ | ⟨-, r, hd⟩ := decodeCommand_cases w
  · exact .inl ⟨rfl, (acceptCommand_of_decode hd (exec_init _)).trans rfl⟩
  · rw [acceptCommand_of_decode hd (exec_abort _)]
    obtain ⟨hp, hr⟩ | ⟨hp, hr⟩ := release_raise_capture_cases .sourceAbort 0x00000003#32 x s <;> rw [hr]
    · exact .inr (.inr (.inl ⟨hp, _, by decide, rfl⟩))
    · exact .inr (.inl ⟨hp, rfl⟩)
  · rw [acceptCommand_chunk x s hop hres]
    obtain ⟨hp, hf⟩ | ⟨hp, hf⟩ | ⟨hp, hf⟩ := whenAbsorbing_cases (chunkEffect (lengthField w)) (capture w x s) <;> rw [hf]
    · obtain he | he := chunkEffect_cases (lengthField w) hp
      · rw [he]
        exact .inr (.inr (.inl ⟨hp.trans_ne (by decide), _, by decide, rfl⟩))
      · exact .inr (.inr (.inr ⟨hp, _, rfl, he⟩))
    · exact .inr (.inr (.inl ⟨hp.trans_ne (by decide), _, by decide, rfl⟩))
    · exact .inr (.inl ⟨hp, rfl⟩)
  · rw [acceptCommand_of_reject hd]
    obtain ⟨hp, hr⟩ | ⟨hp, hr⟩ := release_raise_capture_cases .illegalCommand w x s <;> rw [hr]
    · exact .inr (.inr (.inl ⟨hp, _, by decide, rfl⟩))
    · exact .inr (.inl ⟨hp, rfl⟩)

/-- In ERROR an accepted word is INIT, or it is ignored (R208, R209). -/
theorem acceptCommand_of_error {s : State} (w : Word) (x : Operand) (hp : s.phase = .error) :
    (w = 0x00000001#32 ∧ acceptCommand w x s = .next (release (initialise s)))
    ∨ acceptCommand w x s = .next (release s) := by
  obtain hinit | ⟨-, hignored⟩ | ⟨hne, -⟩ | ⟨habsorbing, -⟩ := acceptCommand_cases w x s
  · exact .inl hinit
  · exact .inr hignored
  · exact absurd hp hne
  · exact nomatch habsorbing.symm.trans hp

/-- No digest is shown in ERROR (R78, R81). -/
theorem digest_of_error {s : State} (hp : s.phase = .error) : digestValid s = false ∧ digest s = 0 := by
  have hvalid : digestValid s = false := by simp [digestValid, hp]
  exact ⟨hvalid, by simp [digest, hvalid]⟩

/-- Settles O21: of the four ways an accepted word can end, only error entry leads into ERROR. -/
theorem errorsArePrecise : Obligations.ErrorsArePrecise := by
  intro s t w data h hs ht
  obtain ⟨-, ha⟩ | ⟨hp, -⟩ | ⟨-, e, he, ha⟩ | ⟨-, u, ha, hu⟩ := acceptCommand_cases w data s
  case inr.inl => exact absurd hp hs
  all_goals rw [ha] at h; obtain rfl := Host.Outcome.next.inj h
  · exact nomatch ht
  · exact ⟨rfl, he, digest_of_error ht⟩
  · exact absurd ht hu

/-- Where nothing is captured there is nothing to let go (log 1). -/
theorem release_eq_self {s : State} (hc : s.cmdLatch = 0) (hd : s.dataLatch = 0) : release s = s := by
  rw [release, ← hc, ← hd]

/-- Settles O22: in ERROR a word that is not INIT is ignored. -/
theorem errorIsSticky : Obligations.ErrorIsSticky := by
  intro s w data hp hw
  obtain ⟨hinit, -⟩ | hignored := acceptCommand_of_error w data hp
  · exact absurd hinit hw
  · exact ⟨⟨0, 0, hignored⟩, fun hc hd => by rw [hignored, release_eq_self hc hd]⟩

/-! ## The ways out of ERROR (R209) -/

/-- The four rows of a CHUNK (R74). -/
theorem chunkOfLength_cases (n : BitVec 7) :
    chunkOfLength n = .chunkAbsorb ∨ chunkOfLength n = .chunkFinal1 n ∨ chunkOfLength n = .chunkFinal2 n
    ∨ chunkOfLength n = .chunkBadlen n := by
  obtain h | h | h | h : n.toNat = 64 ∨ n.toNat ≤ 55 ∨ (56 ≤ n.toNat ∧ n.toNat ≤ 63) ∨ 65 ≤ n.toNat := by omega
  · exact .inl (chunkOfLength_absorb h)
  · exact .inr (.inl (chunkOfLength_final1 h))
  · exact .inr (.inr (.inl (chunkOfLength_final2 h)))
  · exact .inr (.inr (.inr (chunkOfLength_badlen h)))

/-- The checks of R150 in ERROR: INIT is carried out, every other word is ignored (R208, R209). -/
theorem disposition_error (w : Word) :
    (w = 0x00000001#32 ∧ disposition .error w = .init) ∨ disposition .error w = .ignored := by
  obtain ⟨rfl, hd⟩ | ⟨-, hd⟩ | ⟨-, -, hd⟩ | ⟨-, r, hd⟩ := decodeCommand_cases w
  · exact .inl ⟨rfl, by rw [disposition, hd]⟩
  all_goals right; rw [disposition, hd]
  · rfl
  · obtain h | h | h | h := chunkOfLength_cases (lengthField w) <;> rw [h] <;> rfl
  · rfl

theorem advanceRound_phase (next : Stage) (s : State) : (advanceRound next s).phase = s.phase := by
  rw [advanceRound_frame]

/-- PHASE is not written at the accepting edge (R236; log 10). -/
theorem startCommand_phase (w : Word) (x : Operand) (s : State) : (startCommand w x s).phase = s.phase := by
  rw [startCommand, startWork_frame, capture_phase]

/-- While BUSY = 1, only the completing edge writes PHASE (R71, R236; log 10). -/
theorem busyStep_phase {s t : State} (h : busyStep s = .next t) :
    t.phase = s.phase ∨ t = completeCommand { s with inputs := afterEdge s.inputs } := by
  obtain ⟨-, hb⟩ | ⟨-, hb⟩ | ⟨-, hb⟩ | ⟨-, hb⟩ | ⟨-, hb⟩ | ⟨-, hb⟩ := busyStep_cases s
  all_goals rw [hb] at h; obtain rfl := Host.Outcome.next.inj h
  case inr.inr.inr.inr.inr =>
    unfold busyEdge
    split
    · exact .inr rfl
    · exact .inl rfl
  all_goals left
  · exact advanceRound_phase _ _
  · rfl
  · rfl
  · exact advanceRound_phase _ _
  · rfl

/-- A command that completes in ERROR is INIT, or it leaves PHASE (R208, R209). -/
theorem completeCommand_of_error {s : State} (hp : s.phase = .error) :
    (s.cmdLatch = 0x00000001#32 ∧ (completeCommand s).arch = ⟨iv, 0, .absorbing, .noError⟩)
    ∨ (completeCommand s).phase = .error := by
  obtain ⟨hw, hd⟩ | hd := disposition_error s.cmdLatch
  all_goals rw [← hp] at hd; rw [completeCommand, hd]
  · exact .inl ⟨hw, rfl⟩
  · exact .inr hp

/-- What the host can do in ERROR without a reset edge while BUSY = 0: present INIT, or leave PHASE (R208, R209). -/
theorem idleStep_of_error {s t : State} (hp : s.phase = .error) (h : idleStep s = .next t) :
    ((∃ x rest, s.inputs = .command 0x00000001#32 x :: rest) ∧ t.arch = ⟨iv, 0, .absorbing, .noError⟩)
    ∨ t.phase = .error := by
  obtain ⟨-, hs⟩ | ⟨w, x, rest, hi, hs⟩ | ⟨r, w, x, rest, -, hs⟩ | ⟨r, w, x, rest, -, hs⟩ := idleStep_cases s
  all_goals rw [hs] at h
  case inr.inl =>
    obtain ⟨rfl, ha⟩ | ha := acceptCommand_of_error (s := { s with inputs := rest }) w x hp
    all_goals rw [ha] at h; obtain rfl := Host.Outcome.next.inj h
    · exact .inl ⟨⟨x, rest, hi⟩, rfl⟩
    · exact .inr hp
  all_goals obtain rfl := Host.Outcome.next.inj h; right
  · exact hp
  · exact (startCommand_phase w x { s with inputs := rest }).trans hp
  · exact hp

/-- What the engine can do in ERROR without a reset edge while BUSY = 1: complete INIT, or leave PHASE (R208, R209). -/
theorem busyStep_of_error {s t : State} (hp : s.phase = .error) (h : busyStep s = .next t) :
    (s.cmdLatch = 0x00000001#32 ∧ t.arch = ⟨iv, 0, .absorbing, .noError⟩) ∨ t.phase = .error := by
  obtain hphase | rfl := busyStep_phase h
  · exact .inr (hphase.trans hp)
  · exact completeCommand_of_error (s := { s with inputs := afterEdge s.inputs }) hp

/-- Settles O23, by the three kinds of a step: the reset edge, a step while BUSY = 1, a step while BUSY = 0. -/
theorem onlyInitAndResetLeaveError : Obligations.OnlyInitAndResetLeaveError := by
  intro s t h hp ht
  obtain ⟨v, w, x, rest, hi, hs⟩ | ⟨-, ⟨hb, hs⟩ | ⟨hb, hs⟩⟩ := step_cases s
  all_goals rw [hs] at h
  · obtain rfl := Host.Outcome.next.inj h
    exact ⟨rfl, .inl ⟨v, w, x, rest, hi⟩⟩
  · obtain ⟨hw, harch⟩ := (busyStep_of_error hp h).resolve_right ht
    exact ⟨harch, .inr (.inr ⟨hb, hw⟩)⟩
  · obtain ⟨hi, harch⟩ := (idleStep_of_error hp h).resolve_right ht
    exact ⟨harch, .inr (.inl ⟨hb, hi⟩)⟩

end Sys2Proof.Machine
end

section
/-! The statements about both formats of the encoding (30_encoding.md R72 to R76, R82): the decoder and the encoder undo one
another, and the two formats have no instruction in common. -/

namespace Sys2Proof

/-- The decoder on the word of a CHUNK of length `n`: the row that the length selects (R74). -/
theorem decode_commandWord_chunk (n : BitVec 7) : decode (.command (commandWord n 0x2#4)) = .ok (chunkOfLength n) :=
  decodeCommand_commandWord n 0x2#4

/-- A round index is the encoding of its own round (R82). -/
theorem encode_decodeRound (i : BitVec 6) : encode (decodeRound i) = .round i := by
  have hi := roundIndex_of_fields i
  unfold decodeRound
  cases hg : groupOf i <;> rw [hg] at hi <;> simp only [encode, hi]

/-- A round has no operand that could be out of range (R74). -/
theorem decodeRound_wellFormed (i : BitVec 6) : (decodeRound i).wellFormed = true := by
  unfold decodeRound
  cases groupOf i <;> rfl

/-- Whatever a command word decodes to is well-formed, and no round (R74, R82). -/
theorem wellFormed_and_not_round_of_decodeCommand {w : Word} {i : Instr} (h : decodeCommand w = .ok i) :
    i.wellFormed = true ∧ i.isRound = false := by
  obtain ⟨-, hd⟩ | ⟨-, hd⟩ | ⟨-, -, hd⟩ | ⟨-, r, hd⟩ := Machine.decodeCommand_cases w
  all_goals rw [hd] at h; cases h
  · exact ⟨rfl, rfl⟩
  · exact ⟨rfl, rfl⟩
  · exact ⟨chunkOfLength_wellFormed _, chunkOfLength_not_round _⟩

/-- The four groups of R82 as ranges of the round index. -/
theorem groupOf_of_range (i : BitVec 6) :
    (i.toNat < 16 → groupOf i = .f) ∧ (16 ≤ i.toNat ∧ i.toNat < 32 → groupOf i = .g)
    ∧ (32 ≤ i.toNat ∧ i.toNat < 48 → groupOf i = .h) ∧ (48 ≤ i.toNat → groupOf i = .i) := by
  revert i; decide

theorem decode_round_of_group {i : BitVec 6} {grp : Group} (h : groupOf i = grp) :
    decode (.round i) = .ok (roundInstr grp (i.extractLsb' 0 4)) := by
  rw [← decode_roundIndex, ← h, roundIndex_of_fields]

end Sys2Proof

namespace Sys2Proof.Machine

/-- Settles O1, row by row: a CHUNK's length lies in its row's range, and so selects that row again. -/
theorem decodeOfEncodeIsIdentity : Obligations.DecodeOfEncodeIsIdentity := by
  intro i h
  cases i with
  | init => rfl
  | abort => rfl
  | chunkAbsorb => exact decode_commandWord_chunk 64#7
  | chunkFinal1 n =>
    rw [encode, decode_commandWord_chunk, chunkOfLength_final1 (by simpa [Instr.wellFormed] using h)]
  | chunkFinal2 n =>
    rw [encode, decode_commandWord_chunk, chunkOfLength_final2 (by simpa [Instr.wellFormed] using h)]
  | chunkBadlen n =>
    rw [encode, decode_commandWord_chunk, chunkOfLength_badlen (by simpa [Instr.wellFormed] using h)]
  | roundF pos => exact decode_roundIndex .f pos
  | roundG pos => exact decode_roundIndex .g pos
  | roundH pos => exact decode_roundIndex .h pos
  | roundI pos => exact decode_roundIndex .i pos

/-- Settles O2, format by format. -/
theorem encodeOfDecodeIsIdentity : Obligations.EncodeOfDecodeIsIdentity := by
  rintro (w | i) instr h
  · obtain ⟨hwf, -⟩ := wellFormed_and_not_round_of_decodeCommand h
    exact ⟨hwf, encode_of_decodeCommand h⟩
  · obtain rfl := Except.ok.inj h
    exact ⟨decodeRound_wellFormed i, encode_decodeRound i⟩

/-- Settles O5: the range of an index is its group, and no command word decodes to a round. -/
theorem roundIndexSelectsRoundAndNoCommandIsARound : Obligations.RoundIndexSelectsRoundAndNoCommandIsARound := by
  refine ⟨fun i => ?_, fun w i h => ?_⟩
  · obtain ⟨hf, hg, hh, hi⟩ := groupOf_of_range i
    exact ⟨fun h => decode_round_of_group (hf h), fun h => decode_round_of_group (hg h),
      fun h => decode_round_of_group (hh h), fun h => decode_round_of_group (hi h)⟩
  · obtain ⟨-, hround⟩ := wellFormed_and_not_round_of_decodeCommand h
    exact hround

/-- Settles O6: eight closed instances of the decoder. -/
theorem writtenOutWordsDecode : Obligations.WrittenOutWordsDecode := by
  unfold Obligations.WrittenOutWordsDecode
  decide

end Sys2Proof.Machine
end

section
/-! What the checks of R150 decide for an accepted word, said once, and the two ways the model carries the decision out: as one
transaction, and edge by edge. The statements about the frame of the commands (43_commands.md) and about the latencies
(70_reset_and_hazards.md R240). -/

namespace Sys2Proof.Machine

/-! ## What the checks decide -/

theorem failDisposition_cases (e : ErrCode) (p : Phase) :
    (p = .error ∧ failDisposition e p = .ignored) ∨ (p ≠ .error ∧ failDisposition e p = .fails e) := by
  cases p <;> simp [failDisposition]

theorem chunkDisposition_cases (d : Disposition) (p : Phase) :
    (p = .absorbing ∧ chunkDisposition d p = d) ∨ (p = .done ∧ chunkDisposition d p = .fails .sequence)
    ∨ (p = .error ∧ chunkDisposition d p = .ignored) := by
  cases p <;> simp [chunkDisposition]

/-- What a CHUNK of length `n` comes to when the phase lets it through (R74, R203). -/
def dispositionOfLength (n : BitVec 7) : Disposition :=
  if n.toNat = 64 then .absorb
  else if n.toNat ≤ 55 then .final1 n
  else if n.toNat ≤ 63 then .final2 n
  else .fails .badLength

theorem disposition_of_reject {w : Word} {r : Reject} (p : Phase) (h : decodeCommand w = .error r) :
    disposition p w = failDisposition .illegalCommand p := by
  rw [disposition, h]

theorem disposition_of_chunk {w : Word} {n : BitVec 7} (p : Phase) (h : decodeCommand w = .ok (chunkOfLength n)) :
    disposition p w = chunkDisposition (dispositionOfLength n) p := by
  rw [disposition, h, chunkOfLength, dispositionOfLength]
  split_ifs <;> rfl

/-- A CHUNK that the phase lets through compresses, or its length is refused. -/
theorem dispositionOfLength_cases (n : BitVec 7) :
    dispositionOfLength n = .fails .badLength
    ∨ (dispositionOfLength n = .absorb ∨ (∃ m, dispositionOfLength n = .final1 m)
      ∨ ∃ m, dispositionOfLength n = .final2 m) := by
  unfold dispositionOfLength
  split
  · exact .inr (.inl rfl)
  split
  · exact .inr (.inr (.inl ⟨n, rfl⟩))
  split
  · exact .inr (.inr (.inr ⟨n, rfl⟩))
  · exact .inl rfl

/-- The four verdicts of R150: INIT; ignored, in ERROR; error entry, outside ERROR; a CHUNK that is carried out, in ABSORBING. -/
theorem disposition_cases (p : Phase) (w : Word) :
    (w = 0x00000001#32 ∧ disposition p w = .init)
    ∨ (p = .error ∧ disposition p w = .ignored)
    ∨ (p ≠ .error ∧ ∃ e, e ≠ .noError ∧ disposition p w = .fails e)
    ∨ (p = .absorbing ∧ (disposition p w = .absorb ∨ (∃ n, disposition p w = .final1 n)
      ∨ ∃ n, disposition p w = .final2 n)) := by
  have hfail (e : ErrCode) (he : e ≠ .noError) :
      (p = .error ∧ failDisposition e p = .ignored)
      ∨ (p ≠ .error ∧ ∃ e', e' ≠ .noError ∧ failDisposition e p = .fails e') := by
    obtain h | ⟨hp, h⟩ := failDisposition_cases e p
    · exact .inl h
    · exact .inr ⟨hp, e, he, h⟩
  obtain ⟨rfl, -⟩ | ⟨rfl, -⟩ | ⟨-, -, hd⟩ | ⟨-, r, hd⟩ := decodeCommand_cases w
  · exact .inl ⟨rfl, rfl⟩
  · exact .inr ((hfail .sourceAbort (by decide)).imp_right .inl)
  · rw [disposition_of_chunk p hd]
    obtain ⟨hp, h⟩ | ⟨hp, h⟩ | h := chunkDisposition_cases (dispositionOfLength (lengthField w)) p
    · rw [h]
      obtain h | h := dispositionOfLength_cases (lengthField w)
      · exact .inr (.inr (.inl ⟨hp.trans_ne (by decide), _, by decide, h⟩))
      · exact .inr (.inr (.inr ⟨hp, h⟩))
    · exact .inr (.inr (.inl ⟨hp.trans_ne (by decide), _, by decide, h⟩))
    · exact .inr (.inl h)
  · rw [disposition_of_reject p hd]
    exact .inr ((hfail .illegalCommand (by decide)).imp_right .inl)

/-- Settles O35, by the verdicts of R150: outside ABSORBING a word that is not INIT is ignored or fails. -/
theorem latencyOfEachCommand : Obligations.LatencyOfEachCommand := by
  intro p w
  refine ⟨?_, fun ⟨hw, hp⟩ => ?_, fun ⟨hw, hp⟩ => ?_⟩
  · rintro rfl
    rfl
  · obtain ⟨h, -⟩ | ⟨-, h⟩ | ⟨-, e, -, h⟩ | ⟨h, -⟩ := disposition_cases p w
    · exact absurd h hw
    · rw [h]; rfl
    · rw [h]; rfl
    · exact absurd h hp
  · subst hp
    refine ⟨fun h => ?_, fun n h => ?_, fun n h => ?_, ?_⟩
    · rw [disposition, h]; rfl
    · rw [disposition, h]; rfl
    · rw [disposition, h]; rfl
    · rintro (h | ⟨n, h⟩ | ⟨r, h⟩) <;> rw [disposition, h] <;> rfl

/-! ## The decision carried out as one transaction -/

/-- What one transaction does when the checks of R150 have decided. -/
def carryOut : Disposition → State → State
  | .ignored => id
  | .fails e => enterError e
  | .init => initialise
  | .absorb => absorbEffect
  | .final1 n => final1Effect n
  | .final2 n => final2Effect n

theorem raise_eq_carryOut (e : ErrCode) (s : State) : raise e s = carryOut (failDisposition e s.phase) s := by
  cases hp : s.phase <;> simp [hp, failDisposition, carryOut]

theorem whenAbsorbing_eq_carryOut (d : Disposition) (s : State) :
    whenAbsorbing (carryOut d) s = carryOut (chunkDisposition d s.phase) s := by
  cases hp : s.phase <;> simp [hp, chunkDisposition, carryOut]

theorem chunkEffect_eq_carryOut (n : BitVec 7) : chunkEffect n = carryOut (dispositionOfLength n) := by
  unfold chunkEffect dispositionOfLength
  split
  · rfl
  split
  · rfl
  split <;> rfl

/-- An accepted command carries out what the checks decide for its word in the phase it meets (R150). -/
theorem acceptCommand_eq_carryOut (w : Word) (x : Operand) (s : State) :
    acceptCommand w x s = .next (release (carryOut (disposition s.phase w) (capture w x s))) := by
  obtain ⟨rfl, hd⟩ | ⟨rfl, hd⟩ | ⟨hop, hres, hd⟩ | ⟨-, r, hd⟩ := decodeCommand_cases w
  · rw [acceptCommand_of_decode hd (exec_init _)]
    rfl
  · rw [acceptCommand_of_decode hd (exec_abort _), raise_eq_carryOut]
    rfl
  · rw [acceptCommand_chunk x s hop hres, chunkEffect_eq_carryOut, whenAbsorbing_eq_carryOut, disposition_of_chunk _ hd]
    rfl
  · rw [acceptCommand_of_reject hd, raise_eq_carryOut, disposition_of_reject _ hd]
    rfl

/-- PHASE and ERR after a transaction are those that the completing edge of the same command writes (log 10). -/
theorem carryOut_phase_err (d : Disposition) (s : State) :
    (carryOut d s).phase = (writeOutcome d s).phase ∧ (carryOut d s).err = (writeOutcome d s).err := by
  cases d with
  | absorb => simp [carryOut, absorbEffect, writeOutcome]
  | _ => exact ⟨rfl, rfl⟩

/-! ## What no command writes -/

/-- The control part of two states is the same: RC, P2PEND, BUSY, the captured command, the place in its schedule and the host's
list. H, L, PHASE, ERR, M and the working registers may differ. -/
structure SameControl (s t : State) : Prop where
  rc : t.rc = s.rc
  p2pend : t.p2pend = s.p2pend
  busy : t.busy = s.busy
  cmdLatch : t.cmdLatch = s.cmdLatch
  dataLatch : t.dataLatch = s.dataLatch
  stage : t.stage = s.stage
  left : t.left = s.left
  inputs : t.inputs = s.inputs

/-- What holds before an error condition and after error entry holds after the error condition (R208). -/
theorem raise_elim {P : State → Prop} {e : ErrCode} {s : State} (hself : P s) (herr : P (enterError e s)) :
    P (raise e s) := by
  obtain ⟨-, h⟩ | ⟨-, h⟩ := raise_cases e s <;> rwa [h]

/-- What holds before a CHUNK, after error entry and after the chunk's effect holds after the CHUNK (R150). -/
theorem whenAbsorbing_elim {P : State → Prop} {f : State → State} {s : State} (hself : P s)
    (herr : P (enterError .sequence s)) (hf : P (f s)) : P (whenAbsorbing f s) := by
  obtain ⟨-, h⟩ | ⟨-, h⟩ | ⟨-, h⟩ := whenAbsorbing_cases f s <;> rwa [h]

theorem carryOut_sameControl (d : Disposition) (s : State) : SameControl s (carryOut d s) := by
  cases d with
  | absorb => constructor <;> simp [carryOut, absorbEffect]
  | _ => constructor <;> rfl

/-- No instruction writes the control part of the state. -/
theorem exec_sameControl {i : Instr} {s t : State} (h : exec i s = .next t) : SameControl s t := by
  have hself : SameControl s s := carryOut_sameControl .ignored s
  have herr (e : ErrCode) : SameControl s (enterError e s) := carryOut_sameControl (.fails e) s
  cases i <;> obtain rfl := Host.Outcome.next.inj h
  case init => exact carryOut_sameControl .init s
  case abort => exact raise_elim hself (herr _)
  case chunkBadlen n => exact whenAbsorbing_elim hself (herr _) (herr _)
  case chunkAbsorb => exact whenAbsorbing_elim hself (herr _) (carryOut_sameControl .absorb s)
  case chunkFinal1 n => exact whenAbsorbing_elim hself (herr _) (carryOut_sameControl (.final1 n) s)
  case chunkFinal2 n => exact whenAbsorbing_elim hself (herr _) (carryOut_sameControl (.final2 n) s)
  all_goals constructor <;> rfl

/-- ERR is the old one where no error is entered and no ERR is written. -/
def KeepsErrUnlessError (s t : State) : Prop := t.phase ≠ .error → t.err = s.err

/-- Only INIT writes ERR without entering ERROR (R151, R207). -/
theorem exec_keepsErrUnlessError {i : Instr} {s t : State} (hi : i ≠ .init) (h : exec i s = .next t) :
    KeepsErrUnlessError s t := by
  have hself : KeepsErrUnlessError s s := fun _ => rfl
  have herr (e : ErrCode) : KeepsErrUnlessError s (enterError e s) := fun hp => absurd rfl hp
  cases i <;> obtain rfl := Host.Outcome.next.inj h
  case init => exact absurd rfl hi
  case abort => exact raise_elim hself (herr _)
  case chunkBadlen n => exact whenAbsorbing_elim hself (herr _) (herr _)
  case chunkAbsorb => exact whenAbsorbing_elim (f := absorbEffect) hself (herr _) fun _ => by simp [absorbEffect]
  case chunkFinal1 n => exact whenAbsorbing_elim hself (herr _) fun _ => rfl
  case chunkFinal2 n => exact whenAbsorbing_elim hself (herr _) fun _ => rfl
  all_goals exact hself

/-- M and the working registers are the same. -/
def SameBlock (s t : State) : Prop := t.msg = s.msg ∧ t.work = s.work

/-- H and L are the same. -/
def SameHash (s t : State) : Prop := t.h = s.h ∧ t.len = s.len

/-- ABORT and CHUNK.BADLEN leave M, the working registers, H and L (R162, R203, R207). -/
theorem exec_abort_or_badlen_frame {i : Instr} {s t : State} (hi : i = .abort ∨ ∃ n, i = .chunkBadlen n)
    (h : exec i s = .next t) : SameBlock s t ∧ SameHash s t := by
  have hself : SameBlock s s ∧ SameHash s s := ⟨⟨rfl, rfl⟩, ⟨rfl, rfl⟩⟩
  have herr (e : ErrCode) : SameBlock s (enterError e s) ∧ SameHash s (enterError e s) := hself
  obtain rfl | ⟨n, rfl⟩ := hi <;> obtain rfl := Host.Outcome.next.inj h
  · exact raise_elim (P := fun u => SameBlock s u ∧ SameHash s u) hself (herr _)
  · exact whenAbsorbing_elim (P := fun u => SameBlock s u ∧ SameHash s u) hself (herr _) (herr _)

/-- Settles O18, from the frame of all instructions and of the two that only enter an error. -/
theorem commandFrame : Obligations.CommandFrame := by
  intro i s t _ h
  obtain ⟨hrc, hp2pend, hbusy, hcmd, hdata, hstage, hleft, hinputs⟩ := exec_sameControl h
  refine ⟨hrc, hp2pend, hbusy, hcmd, hdata, hstage, hleft, hinputs, ?_, fun hi => ?_, fun hi => exec_keepsErrUnlessError hi h⟩
  · rintro (rfl | hi)
    · obtain rfl := Host.Outcome.next.inj h
      exact ⟨rfl, rfl⟩
    · obtain ⟨hblock, -⟩ := exec_abort_or_badlen_frame hi h
      exact hblock
  · obtain ⟨-, hhash⟩ := exec_abort_or_badlen_frame hi h
    exact hhash

end Sys2Proof.Machine
end

section
/-! The statements about a single step (10_state.md, 30_encoding.md R70, 42_compress.md R134, 70_reset_and_hazards.md R230 to R232):
every step answers, and what it answers for a reset edge, for a presented command, for a round in progress and for an idle engine. -/

namespace Sys2Proof.Machine

/-! ## A busy step, stage by stage -/

theorem busyStep_of_firstRounds {s : State} (h : s.stage = .firstRounds) :
    busyStep s = .next (advanceRound .firstChain (runRound (roundFun (groupOf s.rc)) s.rc s)) := by
  simp [busyStep, h, roundTick_eq]

theorem busyStep_of_firstChain {s : State} (h : s.stage = .firstChain) :
    busyStep s = .next { chainState s with p2pend := true, stage := .between } := by
  simp [busyStep, h]

theorem busyStep_of_between {s : State} (h : s.stage = .between) :
    busyStep s = .next { startBlock .lastRounds (pad2Second s.len) s with p2pend := false } := by
  simp [busyStep, h]

theorem busyStep_of_lastRounds {s : State} (h : s.stage = .lastRounds) :
    busyStep s = .next (advanceRound .lastChain (runRound (roundFun (groupOf s.rc)) s.rc s)) := by
  simp [busyStep, h, roundTick_eq]

theorem busyStep_of_lastChain {s : State} (h : s.stage = .lastChain) :
    busyStep s = .next { chainState s with stage := .settled } := by
  simp [busyStep, h]

theorem busyStep_of_settled {s : State} (h : s.stage = .settled) : busyStep s = .next (busyEdge s) := by
  simp [busyStep, h]

/-- Before round 63 a round's advance counts RC up and nothing else (R34). -/
theorem advanceRound_of_ne {s : State} (next : Stage) (h : s.rc ≠ 63#6) :
    advanceRound next s = { s with rc := s.rc + 1 } := if_neg h

/-- After round 63 the next stage begins, and RC does not wrap (R34). -/
theorem advanceRound_of_last {s : State} (next : Stage) (h : s.rc = 63#6) :
    advanceRound next s = { s with stage := next } := if_pos h

/-! ## The step by BUSY and the host's next action -/

theorem step_of_busy {s : State} (hb : s.busy = true) (h : ∀ v w x rest, s.inputs ≠ .edge true v w x :: rest) :
    step s = busyStep s := by
  rw [step_of_no_reset h, if_pos hb]

theorem step_of_idle {s : State} (hb : s.busy = false) (h : ∀ v w x rest, s.inputs ≠ .edge true v w x :: rest) :
    step s = idleStep s := by
  rw [step_of_no_reset h, hb]
  rfl

theorem step_of_command {s : State} {w : Word} {x : Operand} {rest : List Input} (hb : s.busy = false)
    (hi : s.inputs = .command w x :: rest) : step s = acceptCommand w x { s with inputs := rest } := by
  rw [step_of_idle hb (by simp [hi]), idleStep, hi]

theorem step_of_ready_edge {s : State} {w : Word} {x : Operand} {rest : List Input} (hb : s.busy = false)
    (hi : s.inputs = .edge false true w x :: rest) : step s = .next (startCommand w x { s with inputs := rest }) := by
  rw [step_of_idle hb (by simp [hi]), idleStep, hi]

theorem step_of_idle_edge {s : State} {w : Word} {x : Operand} {rest : List Input} (hb : s.busy = false)
    (hi : s.inputs = .edge false false w x :: rest) : step s = .next { s with inputs := rest } := by
  rw [step_of_idle hb (by simp [hi]), idleStep, hi]

theorem busyStep_next (s : State) : ∃ t, busyStep s = .next t := by
  obtain ⟨-, h⟩ | ⟨-, h⟩ | ⟨-, h⟩ | ⟨-, h⟩ | ⟨-, h⟩ | ⟨-, h⟩ := busyStep_cases s <;> exact ⟨_, h⟩

theorem idleStep_next (s : State) : ∃ t, idleStep s = .next t := by
  obtain ⟨-, h⟩ | ⟨w, x, rest, -, h⟩ | ⟨r, w, x, rest, -, h⟩ | ⟨r, w, x, rest, -, h⟩ := idleStep_cases s
  · exact ⟨_, h⟩
  · rw [h]
    exact acceptCommand_next w x _
  · exact ⟨_, h⟩
  · exact ⟨_, h⟩

/-- Settles O25, by the three kinds of a step. -/
theorem everyStepAnswersANextState : Obligations.EveryStepAnswersANextState := by
  intro s
  obtain ⟨v, w, x, rest, -, hs⟩ | ⟨-, ⟨-, hs⟩ | ⟨-, hs⟩⟩ := step_cases s <;> rw [hs]
  · exact ⟨_, rfl⟩
  · exact busyStep_next s
  · exact idleStep_next s

/-- Settles O40, by the host's next action. -/
theorem idleEngineHoldsItsState : Obligations.IdleEngineHoldsItsState := by
  intro s hb
  refine ⟨fun hi => ?_, fun w data rest hi => step_of_idle_edge hb hi⟩
  rw [step_of_idle hb (by simp [hi]), idleStep, hi]

/-! ## cmd_ready and the reset edge (R70, R230 to R232) -/

/-- The pin `rst` is 1 exactly where the host's list begins with a reset edge (log 19). -/
theorem rstPin_iff (s : State) : rstPin s = true ↔ ∃ v w x rest, s.inputs = .edge true v w x :: rest := by
  unfold rstPin
  rcases s.inputs with _ | ⟨⟨w, x⟩ | ⟨r, v, w, x⟩, rest⟩ <;> simp

/-- Settles O53: the two conditions of R70. -/
theorem commandReady : Obligations.CommandReady := by
  intro s
  rw [cmdReady, Bool.and_eq_true, ← rstPin_iff]
  simp

/-- Settles O33: the step is `resetEdge` of the rest of the host's list. -/
theorem resetEdgeGivesTheResetState : Obligations.ResetEdgeGivesTheResetState := by
  intro s valid w data rest hi
  obtain ⟨hstatus, hdigest⟩ := status_digest_congr (s := resetEdge rest) (t := State.reset) rfl rfl
  refine ⟨?_, fun s' hs' => ?_, resetEdge rest, step_reset hi, rfl, rfl, rfl, rfl, rfl, rfl, rfl,
    hstatus.trans (by decide), hdigest.trans (by decide)⟩
  · rw [cmdReady, (rstPin_iff s).2 ⟨valid, w, data, rest, hi⟩, Bool.not_true, Bool.and_false]
  · rw [step_reset (hs'.trans hi), step_reset hi]

/-! ## A presented command and a round in progress -/

theorem reservedField_of_decodeCommand {w : Word} {i : Instr} (h : decodeCommand w = .ok i) : reservedField w = 0#21 := by
  by_contra hres
  rw [decodeCommand, if_pos hres] at h
  exact nomatch h

/-- For a legal word DATA is sampled exactly where OP is a CHUNK's (R52, R75). -/
theorem capture_of_decode {w : Word} {i : Instr} (x : Operand) (s : State) (h : decodeCommand w = .ok i) :
    capture w x s = { s with cmdLatch := w, dataLatch := if w.extractLsb' 0 4 = 0x2#4 then x else s.dataLatch } := by
  have hres : w.extractLsb' 11 21 = 0#21 := reservedField_of_decodeCommand h
  simp [capture, samplesData_eq, hres]

/-- Settles O30: the step accepts the command, and that runs its instruction on the captured state. -/
theorem stepRunsThePresentedCommand : Obligations.StepRunsThePresentedCommand := by
  intro s w data rest i hb hi hd
  obtain ⟨t, ht⟩ := exec_next i (capture w data { s with inputs := rest })
  have hstep := (step_of_command hb hi).trans (acceptCommand_of_decode hd ht)
  rw [capture_of_decode data _ hd] at ht
  exact ⟨t, ht, hstep⟩

/-- Settles O31: the step is a busy step in a stage of rounds, and RC advances after the round. -/
theorem stepRunsTheRoundOfTheCounter : Obligations.StepRunsTheRoundOfTheCounter := by
  intro s t hb hreset hexec
  rw [exec_decodeRound] at hexec
  rw [step_of_busy hb hreset, ← Host.Outcome.next.inj hexec]
  refine ⟨fun ⟨hs, hrc⟩ => ?_, fun ⟨hs, hrc⟩ => ?_, fun ⟨hs, hrc⟩ => ?_, fun ⟨hs, hrc⟩ => ?_⟩
  · rw [busyStep_of_firstRounds hs, advanceRound_of_ne _ (by simpa using hrc), runRound_rc]
  · rw [busyStep_of_firstRounds hs, advanceRound_of_last _ (by simpa using hrc)]
  · rw [busyStep_of_lastRounds hs, advanceRound_of_ne _ (by simpa using hrc), runRound_rc]
  · rw [busyStep_of_lastRounds hs, advanceRound_of_last _ (by simpa using hrc)]

/-! ## A placed table word (log 13) -/

theorem decodeTableWord_command {nbits w : Nat} {i : Instr} (hn : 8 < nbits) (h : decodeTableWord nbits w = some i) :
    decodeCommand (BitVec.ofNat 32 w) = .ok i := by
  unfold decodeTableWord codeOfTableWord at h
  rw [if_neg (by omega)] at h
  by_cases hw : w < 2 ^ 32
  · rw [if_pos hw] at h
    cases hd : decodeCommand (BitVec.ofNat 32 w) <;> simp [decode, hd] at h
    rw [h]
  · rw [if_neg hw] at h
    exact nomatch h

theorem decodeTableWord_round {nbits w : Nat} {i : Instr} (hn : nbits ≤ 8) (h : decodeTableWord nbits w = some i) :
    i = decodeRound (BitVec.ofNat 6 w) := by
  unfold decodeTableWord codeOfTableWord at h
  rw [if_pos hn] at h
  by_cases hw : w < 64
  · rw [if_pos hw] at h
    exact (Option.some.inj h).symm
  · rw [if_neg hw] at h
    exact nomatch h

/-- An idle engine with the command `w` presented before everything else, with a data operand of zeros. -/
def presenting (w : Word) (s : State) : State :=
  { s with busy := false, stage := .idle, p2pend := false, inputs := .command w 0 :: s.inputs }

theorem withFetchWord_command (s : State) {nbits : Nat} (w : Nat) (hn : 8 < nbits) :
    s.withFetchWord nbits w = presenting (BitVec.ofNat 32 w) s := if_neg (by omega)

/-- Settles O32: a placed command word is a presented command, a placed round index is RC of a compression in its last rounds. -/
theorem placedWordIsRunNext : Obligations.PlacedWordIsRunNext := by
  intro s nbits w i h
  refine ⟨fun hn => ?_, fun hn => ?_⟩
  · rw [withFetchWord_command s w hn]
    exact stepRunsThePresentedCommand (presenting (BitVec.ofNat 32 w) s) _ 0 s.inputs i rfl rfl
      (decodeTableWord_command hn h)
  · obtain rfl := decodeTableWord_round hn h
    rw [State.withFetchWord, if_pos hn]
    refine ⟨_, _, exec_decodeRound _ s, (step_of_busy rfl (by simp)).trans (busyStep_of_lastRounds rfl), ?_, ?_, ?_⟩
    all_goals rw [advanceRound_frame]; rfl

end Sys2Proof.Machine
end

section
/-! The statements about what every step keeps (10_state.md sections 3 and 4, 43_commands.md R165, 70_reset_and_hazards.md R236): the
invariant, by the three kinds of a step; H in DONE; the outputs while BUSY = 1. -/

namespace Sys2Proof.Machine

/-! ## The accepting edge, field by field -/

/-- The stage in which the accepting edge leaves a command (R132, R157; log 4). -/
def Disposition.firstStage : Disposition → Stage
  | .ignored => .settled
  | .fails _ => .settled
  | .init => .settled
  | .absorb => .lastRounds
  | .final1 _ => .lastRounds
  | .final2 _ => .firstRounds

theorem startWork_stage (d : Disposition) (s : State) : (startWork d s).stage = d.firstStage := by
  cases d <;> rfl

@[simp] theorem startCommand_stage (w : Word) (x : Operand) (s : State) :
    (startCommand w x s).stage = (disposition s.phase w).firstStage := startWork_stage _ _

@[simp] theorem startCommand_err (w : Word) (x : Operand) (s : State) : (startCommand w x s).err = s.err := by
  rw [startCommand, startWork_frame, capture_err]

@[simp] theorem startCommand_h (w : Word) (x : Operand) (s : State) : (startCommand w x s).h = s.h := by
  rw [startCommand, startWork_frame, capture_h]

@[simp] theorem startCommand_p2pend (w : Word) (x : Operand) (s : State) : (startCommand w x s).p2pend = s.p2pend := by
  rw [startCommand, startWork_frame, capture_p2pend]

@[simp] theorem startCommand_busy (w : Word) (x : Operand) (s : State) : (startCommand w x s).busy = true := by
  rw [startCommand, startWork_frame]

@[simp] theorem startCommand_cmdLatch (w : Word) (x : Operand) (s : State) : (startCommand w x s).cmdLatch = w := by
  rw [startCommand, startWork_frame, capture_cmdLatch]

@[simp] theorem startCommand_left (w : Word) (x : Operand) (s : State) :
    (startCommand w x s).left = (disposition s.phase w).latency := by
  rw [startCommand, startWork_frame]

@[simp] theorem startCommand_inputs (w : Word) (x : Operand) (s : State) : (startCommand w x s).inputs = s.inputs := by
  rw [startCommand, startWork_frame, capture_inputs]

/-- A command that starts is in progress, and not yet between two compressions. -/
theorem firstStage_ne (d : Disposition) : d.firstStage ≠ .idle ∧ d.firstStage ≠ .between := by
  cases d <;> simp [Disposition.firstStage]

/-- Only CHUNK.FINAL2 starts with the first of two blocks (R157). -/
theorem final2_of_firstStage {d : Disposition}
    (h : d.firstStage = .firstRounds ∨ d.firstStage = .firstChain ∨ d.firstStage = .between) : ∃ n, d = .final2 n := by
  cases d <;> simp_all [Disposition.firstStage]

/-- Only CHUNK.ABSORB and CHUNK.FINAL1 start with their only block (R155, R156). -/
theorem chunk_of_firstStage {d : Disposition} (h : d.firstStage = .lastRounds ∨ d.firstStage = .lastChain) :
    d = .absorb ∨ (∃ n, d = .final1 n) ∨ ∃ n, d = .final2 n := by
  cases d <;> simp_all [Disposition.firstStage]

/-! ## What a micro-operation keeps of the command in progress -/

/-- The command in progress is the same: PHASE, ERR, BUSY, the captured word, the edges left and the host's list. -/
structure SameCommand (s t : State) : Prop where
  phase : t.phase = s.phase
  err : t.err = s.err
  busy : t.busy = s.busy
  cmdLatch : t.cmdLatch = s.cmdLatch
  left : t.left = s.left
  inputs : t.inputs = s.inputs

theorem advanceRound_runRound_sameCommand (next : Stage) (fn : Word → Word → Word → Word) (i : BitVec 6) (s : State) :
    SameCommand s (advanceRound next (runRound fn i s)) := by
  rw [advanceRound_frame]
  constructor <;> rfl

/-- A step while BUSY = 1 keeps the command in progress, or it is a counted edge (log 4). -/
theorem busyStep_sameCommand {s t : State} (h : busyStep s = .next t) : SameCommand s t ∨ t = busyEdge s := by
  obtain ⟨-, h'⟩ | ⟨-, h'⟩ | ⟨-, h'⟩ | ⟨-, h'⟩ | ⟨-, h'⟩ | ⟨-, h'⟩ := busyStep_cases s
  all_goals rw [h'] at h; obtain rfl := Host.Outcome.next.inj h
  · exact .inl (advanceRound_runRound_sameCommand _ _ _ s)
  · left; constructor <;> rfl
  · left; constructor <;> rfl
  · exact .inl (advanceRound_runRound_sameCommand _ _ _ s)
  · left; constructor <;> rfl
  · exact .inr rfl

/-- After a round the stage of rounds goes on, or the next stage begins (R34). -/
theorem advanceRound_stage (next : Stage) (s : State) :
    (advanceRound next s).stage = s.stage ∨ (advanceRound next s).stage = next := by
  by_cases h : s.rc = 63#6
  · rw [advanceRound_of_last next h]
    exact .inr rfl
  · rw [advanceRound_of_ne next h]
    exact .inl rfl

theorem advanceRound_p2pend (next : Stage) (s : State) : (advanceRound next s).p2pend = s.p2pend := by
  rw [advanceRound_frame]

theorem advanceRound_h (next : Stage) (s : State) : (advanceRound next s).h = s.h := by
  rw [advanceRound_frame]

/-! ## The invariant -/

theorem Inv.p2pend_eq_false {s : State} (hi : Inv s) (h : s.stage ≠ .between) : s.p2pend = false :=
  Bool.eq_false_iff.mpr fun hp => h (hi.p2pendMatchesStage.1 hp)

theorem Inv.stage_of_idle {s : State} (hi : Inv s) (hb : s.busy = false) : s.stage = .idle := by
  by_contra h
  exact nomatch hb.symm.trans (hi.busyMatchesStage.2 h)

/-- At a command boundary with nothing captured the invariant is R25's alone. -/
theorem inv_of_boundary {s : State} (herr : s.err = .noError ↔ s.phase ≠ .error) (hb : s.busy = false)
    (hs : s.stage = .idle) (hp : s.p2pend = false) (hc : s.cmdLatch = 0) (hd : s.dataLatch = 0) : Inv s where
  errMatchesPhase := herr
  busyMatchesStage := by simp [hb, hs]
  p2pendMatchesStage := by simp [hp, hs]
  nothingCaptured := fun _ => ⟨hc, hd⟩
  edgesLeft := by simp [hb]
  firstBlockIsFinal2 := by simp [hs]
  lastBlockIsChunk := by simp [hs]

/-- Settles O26: after reset nothing is in progress and nothing is captured. -/
theorem resetMeetsTheInvariant : Obligations.ResetMeetsTheInvariant :=
  inv_of_boundary (by decide) rfl rfl rfl rfl rfl

/-- The three stages of the first of two blocks. -/
def Stage.ofFirstBlock (st : Stage) : Prop := st = .firstRounds ∨ st = .firstChain ∨ st = .between

/-- The two stages of the only or the second block. -/
def Stage.ofLastBlock (st : Stage) : Prop := st = .lastRounds ∨ st = .lastChain

/-- A command in progress may go on from the stage `a` to the stage `b`. -/
structure Stage.MayBecome (a b : Stage) : Prop where
  notIdle : b ≠ .idle
  first : b.ofFirstBlock → a.ofFirstBlock
  last : b.ofLastBlock → a.ofFirstBlock ∨ a.ofLastBlock

theorem Stage.mayBecome_self {a : Stage} (h : a ≠ .idle) : a.MayBecome a := ⟨h, id, .inr⟩

/-- The steps of the schedule (R132 to R135, R157; log 4). -/
theorem Stage.mayBecome_next :
    Stage.firstRounds.MayBecome .firstChain ∧ Stage.firstChain.MayBecome .between ∧ Stage.between.MayBecome .lastRounds
    ∧ Stage.lastRounds.MayBecome .lastChain ∧ Stage.lastChain.MayBecome .settled := by
  refine ⟨?_, ?_, ?_, ?_, ?_⟩ <;> constructor <;> simp [Stage.ofFirstBlock, Stage.ofLastBlock]

/-- A command in progress stays within the invariant while it goes on from stage to stage. -/
theorem Inv.of_sameCommand {s t : State} (hi : Inv s) (hb : s.busy = true) (hst : SameCommand s t)
    (hstage : s.stage.MayBecome t.stage) (hp : t.p2pend = true ↔ t.stage = .between) : Inv t := by
  obtain ⟨hphase, herr, hbusy, hcmd, hleft, -⟩ := hst
  refine ⟨?_, ?_, hp, fun h => ?_, fun _ => ?_, fun h => ?_, fun h => ?_⟩
  · rw [herr, hphase]
    exact hi.errMatchesPhase
  · exact ⟨fun _ => hstage.notIdle, fun _ => hbusy.trans hb⟩
  · exact nomatch h.symm.trans (hbusy.trans hb)
  · rw [hleft]
    exact hi.edgesLeft hb
  · rw [hphase, hcmd]
    exact hi.firstBlockIsFinal2 (hstage.first h)
  · rw [hphase, hcmd]
    exact (hstage.last h).elim (fun h => .inr (.inr (hi.firstBlockIsFinal2 h))) hi.lastBlockIsChunk

/-- The outcome of a command in a phase that matches ERR matches ERR again (R25, R151, R207). -/
theorem writeOutcome_errMatchesPhase {s : State} (w : Word) (h : s.err = .noError ↔ s.phase ≠ .error) :
    (writeOutcome (disposition s.phase w) s).err = .noError ↔ (writeOutcome (disposition s.phase w) s).phase ≠ .error := by
  obtain ⟨-, hd⟩ | ⟨-, hd⟩ | ⟨-, e, he, hd⟩ | ⟨hp, hd | ⟨n, hd⟩ | ⟨n, hd⟩⟩ := disposition_cases s.phase w
  all_goals rw [hd]
  · simp [writeOutcome]
  · exact h
  · simp [writeOutcome, he]
  · exact h
  · simpa [writeOutcome, hp] using h
  · simpa [writeOutcome, hp] using h

theorem inv_completeCommand {s : State} (herr : s.err = .noError ↔ s.phase ≠ .error) (hp : s.p2pend = false) :
    Inv (completeCommand s) := by
  refine inv_of_boundary (writeOutcome_errMatchesPhase s.cmdLatch herr) rfl rfl ?_ rfl rfl
  rw [completeCommand_frame]
  exact hp

theorem Inv.busyEdge {s : State} (hi : Inv s) (hp : s.p2pend = false) : Inv (busyEdge s) := by
  unfold Machine.busyEdge
  split
  · exact inv_completeCommand hi.errMatchesPhase hp
  · next hleft =>
    exact ⟨hi.errMatchesPhase, hi.busyMatchesStage, hi.p2pendMatchesStage, hi.nothingCaptured, fun _ => by dsimp only; omega,
      hi.firstBlockIsFinal2, hi.lastBlockIsChunk⟩

/-- A round keeps the invariant: its stage goes on, or the next one begins. -/
theorem Inv.round {s : State} {next : Stage} (hi : Inv s) (hb : s.busy = true) (fn : Word → Word → Word → Word) (i : BitVec 6)
    (hnext : s.stage.MayBecome next) (hs : s.stage ≠ .between) (hn : next ≠ .between) :
    Inv (advanceRound next (runRound fn i s)) := by
  have hsame := advanceRound_runRound_sameCommand next fn i s
  obtain h | h := advanceRound_stage next (runRound fn i s)
  all_goals
    refine hi.of_sameCommand hb hsame ?_ ?_ <;> rw [h]
  · exact Stage.mayBecome_self (hi.busyMatchesStage.1 hb)
  · rw [advanceRound_p2pend]
    exact hi.p2pendMatchesStage
  · exact hnext
  · simp [advanceRound_p2pend, hi.p2pend_eq_false hs, hn]

theorem inv_busyStep {s t : State} (hi : Inv s) (hb : s.busy = true) (h : busyStep s = .next t) : Inv t := by
  obtain ⟨hrounds, hchain, hbetween, hlastRounds, hlastChain⟩ := Stage.mayBecome_next
  obtain ⟨hs, h'⟩ | ⟨hs, h'⟩ | ⟨hs, h'⟩ | ⟨hs, h'⟩ | ⟨hs, h'⟩ | ⟨hs, h'⟩ := busyStep_cases s
  all_goals rw [h'] at h; obtain rfl := Host.Outcome.next.inj h
  · exact hi.round hb _ _ (hs ▸ hrounds) (by simp [hs]) (by decide)
  · exact hi.of_sameCommand hb (by constructor <;> rfl) (hs ▸ hchain) (by simp)
  · exact hi.of_sameCommand hb (by constructor <;> rfl) (hs ▸ hbetween) (by simp)
  · exact hi.round hb _ _ (hs ▸ hlastRounds) (by simp [hs]) (by decide)
  · exact hi.of_sameCommand hb (by constructor <;> rfl) (hs ▸ hlastChain) (by simp [hi.p2pend_eq_false, hs])
  · exact hi.busyEdge (hi.p2pend_eq_false (by obtain hs | hs := hs <;> simp [hs]))

theorem Inv.startCommand {s : State} (hi : Inv s) (hb : s.busy = false) (w : Word) (x : Operand) :
    Inv (startCommand w x s) := by
  obtain ⟨hidle, hbetween⟩ := firstStage_ne (disposition s.phase w)
  have hp : s.p2pend = false := hi.p2pend_eq_false (by simp [hi.stage_of_idle hb])
  constructor <;> simp only [startCommand_err, startCommand_phase, startCommand_busy, startCommand_stage,
    startCommand_p2pend, startCommand_left, startCommand_cmdLatch]
  · exact hi.errMatchesPhase
  · simpa using hidle
  · simp [hp, hbetween]
  · simp
  · exact fun _ => latency_pos _
  · exact final2_of_firstStage
  · exact chunk_of_firstStage

/-- A transaction ends at a boundary with nothing captured, and its PHASE and ERR are those of the completing edge. -/
theorem Inv.acceptCommand {s t : State} {w : Word} {x : Operand} (hi : Inv s) (hb : s.busy = false)
    (h : acceptCommand w x s = .next t) : Inv t := by
  rw [acceptCommand_eq_carryOut] at h
  obtain rfl := Host.Outcome.next.inj h
  have hcontrol := carryOut_sameControl (disposition s.phase w) (capture w x s)
  obtain ⟨hphase, herr⟩ := carryOut_phase_err (disposition s.phase w) (capture w x s)
  refine inv_of_boundary ?_ (hcontrol.busy.trans hb) (hcontrol.stage.trans (hi.stage_of_idle hb))
    (hcontrol.p2pend.trans (hi.p2pend_eq_false (by simp [hi.stage_of_idle hb]))) rfl rfl
  rw [release_err, release_phase, hphase, herr]
  exact writeOutcome_errMatchesPhase (s := capture w x s) w hi.errMatchesPhase

/-- The host's list is no part of the invariant. -/
theorem Inv.withInputs {s : State} (hi : Inv s) (l : List Input) : Inv { s with inputs := l } := { hi with }

theorem inv_idleStep {s t : State} (hi : Inv s) (hb : s.busy = false) (h : idleStep s = .next t) : Inv t := by
  obtain ⟨-, h'⟩ | ⟨w, x, rest, -, h'⟩ | ⟨r, w, x, rest, -, h'⟩ | ⟨r, w, x, rest, -, h'⟩ := idleStep_cases s
  all_goals rw [h'] at h
  case inr.inl => exact (hi.withInputs rest).acceptCommand hb h
  all_goals obtain rfl := Host.Outcome.next.inj h
  · exact hi
  · exact (hi.withInputs rest).startCommand hb w x
  · exact hi.withInputs rest

/-- Settles O27, by the three kinds of a step. -/
theorem everyStepKeepsTheInvariant : Obligations.EveryStepKeepsTheInvariant := by
  intro s t hi h
  obtain ⟨v, w, x, rest, -, hs⟩ | ⟨-, ⟨hb, hs⟩ | ⟨hb, hs⟩⟩ := step_cases s
  all_goals rw [hs] at h
  · obtain rfl := Host.Outcome.next.inj h
    exact resetMeetsTheInvariant.withInputs rest
  · exact inv_busyStep hi hb h
  · exact inv_idleStep hi hb h

/-! ## H in DONE (R165) -/

/-- A compression runs only in ABSORBING (R131, R200). -/
theorem Inv.absorbing_of_compressing {s : State} (hi : Inv s) (h : s.stage.ofFirstBlock ∨ s.stage.ofLastBlock) :
    s.phase = .absorbing :=
  phase_of_compressing (h.elim (fun h => .inr (.inr (hi.firstBlockIsFinal2 h))) hi.lastBlockIsChunk)

/-- The completing edge of a command writes H only for INIT (R71, R151; log 10). -/
theorem completeCommand_h (s : State) :
    (s.cmdLatch = 0x00000001#32 ∧ (completeCommand s).arch = ⟨iv, 0, .absorbing, .noError⟩)
    ∨ (completeCommand s).h = s.h := by
  unfold completeCommand
  obtain ⟨hw, hd⟩ | ⟨-, hd⟩ | ⟨-, e, -, hd⟩ | ⟨-, hd | ⟨n, hd⟩ | ⟨n, hd⟩⟩ := disposition_cases s.phase s.cmdLatch
  all_goals rw [hd]
  · exact .inl ⟨hw, rfl⟩
  all_goals exact .inr rfl

/-- In DONE a step while BUSY = 1 leaves H, unless it completes INIT. -/
theorem busyStep_of_done {s t : State} (hi : Inv s) (hp : s.phase = .done) (h : busyStep s = .next t) :
    t.h = s.h ∨ (s.cmdLatch = 0x00000001#32 ∧ t.arch = ⟨iv, 0, .absorbing, .noError⟩) := by
  obtain ⟨-, h'⟩ | ⟨hs, -⟩ | ⟨-, h'⟩ | ⟨-, h'⟩ | ⟨hs, -⟩ | ⟨-, h'⟩ := busyStep_cases s
  case inr.inl => exact nomatch hp.symm.trans (hi.absorbing_of_compressing (.inl (.inr (.inl hs))))
  case inr.inr.inr.inr.inl => exact nomatch hp.symm.trans (hi.absorbing_of_compressing (.inr (.inr hs)))
  all_goals rw [h'] at h; obtain rfl := Host.Outcome.next.inj h
  · exact .inl (advanceRound_h _ _)
  · exact .inl rfl
  · exact .inl (advanceRound_h _ _)
  · unfold busyEdge
    split
    · exact (completeCommand_h { s with inputs := afterEdge s.inputs }).symm
    · exact .inl rfl

/-- In DONE a step while BUSY = 0 leaves H, unless it carries out INIT as a transaction. -/
theorem idleStep_of_done {s t : State} (hp : s.phase = .done) (h : idleStep s = .next t) :
    t.h = s.h ∨ ((∃ x rest, s.inputs = .command 0x00000001#32 x :: rest) ∧ t.arch = ⟨iv, 0, .absorbing, .noError⟩) := by
  obtain ⟨-, h'⟩ | ⟨w, x, rest, hin, h'⟩ | ⟨r, w, x, rest, -, h'⟩ | ⟨r, w, x, rest, -, h'⟩ := idleStep_cases s
  all_goals rw [h'] at h
  case inr.inl =>
    obtain ⟨rfl, ha⟩ | ⟨-, ha⟩ | ⟨-, e, -, ha⟩ | ⟨habsorbing, -⟩ := acceptCommand_cases w x { s with inputs := rest }
    case inr.inr.inr => exact nomatch hp.symm.trans habsorbing
    all_goals rw [ha] at h; obtain rfl := Host.Outcome.next.inj h
    · exact .inr ⟨⟨x, rest, hin⟩, rfl⟩
    · exact .inl rfl
    · exact .inl rfl
  all_goals obtain rfl := Host.Outcome.next.inj h; left
  · rfl
  · exact startCommand_h w x _
  · rfl

/-- Settles O24, by the three kinds of a step. -/
theorem digestIsImmutableInDone : Obligations.DigestIsImmutableInDone := by
  intro s t hi h hp
  obtain ⟨v, w, x, rest, hin, hs⟩ | ⟨-, ⟨hb, hs⟩ | ⟨hb, hs⟩⟩ := step_cases s
  all_goals rw [hs] at h
  · obtain rfl := Host.Outcome.next.inj h
    exact .inr ⟨rfl, .inl ⟨v, w, x, rest, hin⟩⟩
  · exact (busyStep_of_done hi hp h).imp_right fun ⟨hw, harch⟩ => ⟨harch, .inr (.inr ⟨hb, hw⟩)⟩
  · exact (idleStep_of_done hp h).imp_right fun ⟨hin, harch⟩ => ⟨harch, .inr (.inl ⟨hb, hin⟩)⟩

/-! ## The outputs while BUSY = 1 (R236) -/

/-- A step while BUSY = 1 keeps PHASE and ERR, or it is the completing edge. -/
theorem busyStep_phase_err {s t : State} (h : busyStep s = .next t) :
    (t.phase = s.phase ∧ t.err = s.err) ∨ t.busy = false := by
  obtain hsame | rfl := busyStep_sameCommand h
  · exact .inl ⟨hsame.phase, hsame.err⟩
  · unfold busyEdge
    split
    · exact .inr rfl
    · exact .inl ⟨rfl, rfl⟩

/-- A step from BUSY = 1 to BUSY = 1 keeps PHASE and ERR. -/
theorem step_busy_phase_err {s t : State} (hb : s.busy = true) (h : step s = .next t) (ht : t.busy = true) :
    t.phase = s.phase ∧ t.err = s.err := by
  obtain ⟨v, w, x, rest, -, hs⟩ | ⟨-, ⟨-, hs⟩ | ⟨hidle, -⟩⟩ := step_cases s
  · rw [hs] at h
    obtain rfl := Host.Outcome.next.inj h
    exact nomatch ht
  · rw [hs] at h
    exact (busyStep_phase_err h).resolve_right (by simp [ht])
  · exact nomatch hb.symm.trans hidle

/-- Settles O38, from the bits of the status word and from what a step between two busy states keeps. -/
theorem outputsWhileBusy : Obligations.OutputsWhileBusy := by
  intro s hb
  have hvalid : digestValid s = false := by simp [digestValid, hb]
  refine ⟨(getLsbD_status s 2).trans hb, (getLsbD_status s 3).trans hvalid, by simp [digest, hvalid], fun t h ht => ?_⟩
  obtain ⟨hphase, herr⟩ := step_busy_phase_err hb h ht
  refine ⟨hphase, herr, ?_⟩
  simp [status, digestValid, hphase, herr, hb, ht]

end Sys2Proof.Machine
end

section
/-! The statements about a command carried out edge by edge (30_encoding.md R71, 70_reset_and_hazards.md R235 to R241): when it is
accepted, how long BUSY stays 1, and that it ends in the state that the same command gives as one transaction. The micro-operations
are said once, by how many are left and by the state that they lead to. -/

namespace Sys2Proof.Machine

/-! ## Runs during which BUSY = 1 -/

/-- `k` steps from `s` to `t`, at the beginning of each of which BUSY = 1. -/
inductive BusyRun : Nat → State → State → Prop
  | refl (s : State) : BusyRun 0 s s
  | head {k : Nat} {s u t : State} (hb : s.busy = true) (hstep : step s = .next u) (hrun : BusyRun k u t) :
    BusyRun (k + 1) s t

theorem BusyRun.runSteps {k : Nat} {s t : State} (h : BusyRun k s t) : runSteps k s = .next t := by
  induction h with
  | refl s => rfl
  | head hb hstep hrun ih => rw [runSteps_succ_of_step hstep, ih]

theorem BusyRun.trans {j k : Nat} {s u t : State} (h : BusyRun j s u) (h' : BusyRun k u t) : BusyRun (j + k) s t := by
  induction h with
  | refl s => rwa [Nat.zero_add]
  | head hb hstep hrun ih =>
    rw [Nat.add_right_comm]
    exact .head hb hstep (ih h')

theorem BusyRun.busy {k : Nat} {s t : State} (h : BusyRun k s t) (hk : 0 < k) : s.busy = true := by
  cases h with
  | refl s => exact absurd hk (by decide)
  | head hb hstep hrun => exact hb

/-- Before its end such a run keeps PHASE and ERR (R236). -/
theorem BusyRun.state_of_lt {j k : Nat} {s t : State} (h : BusyRun k s t) (hj : j < k) :
    ∃ v, Machine.runSteps j s = .next v ∧ v.busy = true ∧ v.phase = s.phase ∧ v.err = s.err := by
  induction h generalizing j with
  | refl s => exact absurd hj (Nat.not_lt_zero j)
  | @head k s u t hb hstep hrun ih =>
    cases j with
    | zero => exact ⟨s, rfl, hb, rfl, rfl⟩
    | succ j =>
      have hj' : j < k := Nat.lt_of_succ_lt_succ hj
      obtain ⟨v, hv, hbusy, hphase, herr⟩ := ih hj'
      obtain ⟨hp, he⟩ := step_busy_phase_err hb hstep (hrun.busy (Nat.zero_lt_of_lt hj'))
      exact ⟨v, (runSteps_succ_of_step hstep).trans hv, hbusy, hphase.trans hp, herr.trans he⟩

/-! ## The state that the micro-operations lead to -/

/-- Round `i` on the working registers (R104, R109). -/
def roundAt (m : Vector Word 16) (q : Quad) (i : Nat) : Quad :=
  roundStep (roundFun (groupOf (BitVec.ofNat 6 i))) (BitVec.ofNat 6 i) m q

/-- The rounds from RC on are done, and RC stands at the last one (R34, R134). -/
def afterRounds (s : State) : State :=
  { s with work := (List.range' s.rc.toNat (64 - s.rc.toNat)).foldl (roundAt s.msg) s.work, rc := 63 }

/-- The second block is loaded and compressed (R157, R159). -/
def afterSecondBlock (s : State) : State := { compressState (pad2Second s.len) s with rc := 63, p2pend := false }

/-- All micro-operations of the command in progress are done (R132 to R135, R157). -/
def settle (s : State) : State :=
  { (match s.stage with
      | .firstRounds => afterSecondBlock (chainState (afterRounds s))
      | .firstChain => afterSecondBlock (chainState s)
      | .between => afterSecondBlock s
      | .lastRounds => chainState (afterRounds s)
      | .lastChain => chainState s
      | .settled => s
      | .idle => s) with stage := .settled }

theorem settle_of_firstRounds {s : State} (h : s.stage = .firstRounds) :
    settle s = { afterSecondBlock (chainState (afterRounds s)) with stage := .settled } := by rw [settle, h]

theorem settle_of_firstChain {s : State} (h : s.stage = .firstChain) :
    settle s = { afterSecondBlock (chainState s) with stage := .settled } := by rw [settle, h]

theorem settle_of_between {s : State} (h : s.stage = .between) :
    settle s = { afterSecondBlock s with stage := .settled } := by rw [settle, h]

theorem settle_of_lastRounds {s : State} (h : s.stage = .lastRounds) :
    settle s = { chainState (afterRounds s) with stage := .settled } := by rw [settle, h]

theorem settle_of_lastChain {s : State} (h : s.stage = .lastChain) :
    settle s = { chainState s with stage := .settled } := by rw [settle, h]

theorem settle_of_settled {s : State} (h : s.stage = .settled) : settle s = s := by
  rw [settle, h]
  dsimp only
  rw [← h]

/-- How many micro-operations of the command in progress are still to come (log 4). -/
def microOpsLeft (s : State) : Nat :=
  match s.stage with
  | .firstRounds => 131 - s.rc.toNat
  | .firstChain => 67
  | .between => 66
  | .lastRounds => 65 - s.rc.toNat
  | .lastChain => 1
  | .settled => 0
  | .idle => 0

/-- A round is the last one and leads to the state after all rounds, or RC counts up and that state stays what it is (R34). -/
theorem advanceRound_runRound_cases (next : Stage) (s : State) :
    (s.rc = 63#6
      ∧ advanceRound next (runRound (roundFun (groupOf s.rc)) s.rc s) = { afterRounds s with stage := next })
    ∨ ∃ t, advanceRound next (runRound (roundFun (groupOf s.rc)) s.rc s) = t
      ∧ t.stage = s.stage ∧ t.rc.toNat = s.rc.toNat + 1 ∧ afterRounds t = afterRounds s := by
  by_cases hrc : s.rc = 63#6
  · left
    rw [advanceRound_of_last _ (by simpa using hrc)]
    simp [afterRounds, runRound, roundAt, hrc]
  · right
    have hlt : s.rc.toNat < 63 := by
      have hle := s.rc.isLt
      have hne : s.rc.toNat ≠ 63 := fun h => hrc (BitVec.eq_of_toNat_eq h)
      omega
    have hsucc : (s.rc + 1).toNat = s.rc.toNat + 1 := by
      rw [BitVec.toNat_add, Nat.mod_eq_of_lt (by simpa using by omega)]
      rfl
    have hrange : List.range' s.rc.toNat (64 - s.rc.toNat)
        = s.rc.toNat :: List.range' (s.rc.toNat + 1) (64 - (s.rc.toNat + 1)) := by
      rw [← List.range'_succ]
      congr 1
      omega
    refine ⟨_, advanceRound_of_ne _ (by simpa using hrc), rfl, hsucc, ?_⟩
    simp only [afterRounds, hsucc, hrange, List.foldl_cons, roundAt, BitVec.ofNat_toNat, BitVec.setWidth_eq, runRound]

/-- A block that is loaded, run through its rounds and added to H is compressed (R130, R132 to R136). -/
theorem chainState_afterRounds_startBlock (st : Stage) (block : List Byte) (s : State) :
    chainState (afterRounds (startBlock st block s)) = { compressState block s with rc := 63, stage := st } := by
  rw [afterRounds, startBlock_rc, compressState_eq_chainState]
  unfold rounds
  rw [List.range_eq_range']
  rfl

/-- One micro-operation: it keeps the command, there is one less to come, and it leads to the same state in the end. -/
structure MicroOp (s t : State) : Prop where
  busyStep : busyStep s = .next t
  same : SameCommand s t
  notIdle : t.stage ≠ .idle
  count : microOpsLeft t + 1 = microOpsLeft s
  settle : settle t = settle s

/-- A round is a micro-operation of its stage, if that stage counts the rounds up to 63 and leads where the next one leads after
them. -/
theorem microOp_of_rounds {s : State} {next : Stage} (hi : s.stage ≠ .idle) (hn : next ≠ .idle)
    (hstep : busyStep s = .next (advanceRound next (runRound (roundFun (groupOf s.rc)) s.rc s)))
    (hcount : ∀ t, t.stage = s.stage →
      microOpsLeft t = 64 - t.rc.toNat + microOpsLeft { afterRounds t with stage := next })
    (hsettle : ∀ t, t.stage = s.stage → settle t = settle { afterRounds t with stage := next }) : ∃ t, MicroOp s t := by
  have hsame := advanceRound_runRound_sameCommand next (roundFun (groupOf s.rc)) s.rc s
  obtain ⟨hrc, h⟩ | ⟨t, h, hstage, hrc, hafter⟩ := advanceRound_runRound_cases next s <;> rw [h] at hstep hsame
  · refine ⟨_, hstep, hsame, hn, ?_, (hsettle s rfl).symm⟩
    rw [hcount s rfl, hrc, Nat.add_comm]
    rfl
  · refine ⟨t, hstep, hsame, hstage ▸ hi, ?_, ?_⟩
    · have hlt := t.rc.isLt
      rw [hcount t hstage, hcount s rfl, hafter]
      omega
    · rw [hsettle t hstage, hafter, ← hsettle s rfl]

theorem microOp_of_firstRounds {s : State} (hs : s.stage = .firstRounds) : ∃ t, MicroOp s t := by
  refine microOp_of_rounds (by simp [hs]) (by decide) (busyStep_of_firstRounds hs) (fun t ht => ?_) fun t ht => ?_
  · have hlt := t.rc.isLt
    simp only [microOpsLeft, ht, hs]
    omega
  · rw [settle_of_firstRounds (ht.trans hs), settle_of_firstChain rfl]
    rfl

theorem microOp_of_lastRounds {s : State} (hs : s.stage = .lastRounds) : ∃ t, MicroOp s t := by
  refine microOp_of_rounds (by simp [hs]) (by decide) (busyStep_of_lastRounds hs) (fun t ht => ?_) fun t ht => ?_
  · have hlt := t.rc.isLt
    simp only [microOpsLeft, ht, hs]
    omega
  · rw [settle_of_lastRounds (ht.trans hs), settle_of_lastChain rfl]
    rfl

/-- Every stage before `settled` has its micro-operation (R132 to R135, R157). -/
theorem exists_microOp {s : State} (hs : s.stage ≠ .settled) (hi : s.stage ≠ .idle) : ∃ t, MicroOp s t := by
  cases h : s.stage with
  | firstRounds => exact microOp_of_firstRounds h
  | firstChain =>
    refine ⟨_, busyStep_of_firstChain h, by constructor <;> rfl, by simp, by simp [microOpsLeft, h], ?_⟩
    rw [settle_of_between rfl, settle_of_firstChain h]
    rfl
  | between =>
    have hblock := chainState_afterRounds_startBlock .lastRounds (pad2Second s.len) s
    refine ⟨_, busyStep_of_between h, by constructor <;> rfl, by simp, by simp [microOpsLeft, h], ?_⟩
    rw [settle_of_lastRounds rfl, settle_of_between h]
    exact congrArg (fun t : State => { t with p2pend := false, stage := .settled }) hblock
  | lastRounds => exact microOp_of_lastRounds h
  | lastChain =>
    refine ⟨_, busyStep_of_lastChain h, by constructor <;> rfl, by simp, by simp [microOpsLeft, h], ?_⟩
    rw [settle_of_settled rfl, settle_of_lastChain h]
  | settled => exact absurd h hs
  | idle => exact absurd h hi

/-- The micro-operations of a command in progress run to the state they lead to, and BUSY is 1 meanwhile (log 4). -/
theorem busyRun_settle {s : State} (hb : s.busy = true) (hi : s.stage ≠ .idle)
    (hreset : ∀ v w x rest, s.inputs ≠ .edge true v w x :: rest) : BusyRun (microOpsLeft s) s (settle s) := by
  generalize hn : microOpsLeft s = n
  induction n generalizing s with
  | zero =>
    by_cases hs : s.stage = .settled
    · rw [settle_of_settled hs]
      exact .refl s
    · obtain ⟨t, ht⟩ := exists_microOp hs hi
      exact absurd (ht.count.trans hn) (Nat.succ_ne_zero _)
  | succ n ih =>
    have hs : s.stage ≠ .settled := fun hs => by simp [microOpsLeft, hs] at hn
    obtain ⟨t, ht⟩ := exists_microOp hs hi
    have hcount : microOpsLeft t = n := Nat.succ.inj (ht.count.trans hn)
    rw [← ht.settle]
    exact .head hb ((step_of_busy hb hreset).trans ht.busyStep)
      (ih (ht.same.busy.trans hb) ht.notIdle (ht.same.inputs ▸ hreset) hcount)

/-- The micro-operations keep the command (R71, R236; log 4). -/
theorem settle_sameCommand (s : State) : SameCommand s (settle s) := by
  unfold settle
  cases s.stage <;> constructor <;> rfl

theorem settle_stage (s : State) : (settle s).stage = .settled := rfl

/-- The model's schedule has at most 131 micro-operations (log 4). -/
theorem microOpsLeft_le (s : State) : microOpsLeft s ≤ 131 := by
  unfold microOpsLeft
  cases s.stage <;> dsimp only <;> omega

/-! ## The edges that are counted (R240; log 5) -/

/-- The edges left have no part in what the completing edge writes. -/
theorem completeCommand_withLeft (n : Nat) (s : State) : completeCommand { s with left := n } = completeCommand s := by
  unfold completeCommand
  dsimp only
  cases disposition s.phase s.cmdLatch <;> rfl

theorem completeCommand_inputs (s : State) : (completeCommand s).inputs = s.inputs := by
  rw [completeCommand_frame]

/-- An edge takes nothing but itself off the host's list. -/
theorem mem_of_mem_afterEdge {i : Input} {l : List Input} (h : i ∈ afterEdge l) : i ∈ l := by
  rcases l with _ | ⟨⟨w, x⟩ | ⟨r, v, w, x⟩, rest⟩
  · exact h
  · exact h
  · exact List.mem_cons_of_mem _ h

/-- As many edges as a list of edges begins with take these off it. -/
theorem afterEdge_iterate (n : Nat) {l : List Input} (h : ∀ i ∈ l, i.isEdgeWithoutReset = true) :
    afterEdge^[n] l = l.drop n := by
  induction n generalizing l with
  | zero => rfl
  | succ n ih =>
    rw [Function.iterate_succ_apply]
    rcases l with _ | ⟨⟨w, x⟩ | ⟨r, v, w, x⟩, rest⟩
    · exact (ih h).trans (List.drop_nil.trans List.drop_nil.symm)
    · exact nomatch h _ List.mem_cons_self
    · exact ih fun i hi => h i (List.mem_cons_of_mem _ hi)

theorem not_reset_of_edgeWithoutReset {i : Input} (h : i.isEdgeWithoutReset = true) : i.isReset = false := by
  cases i with
  | command w x => rfl
  | edge r v w x => simpa [Input.isEdgeWithoutReset, Input.isReset] using h

/-- A host that asserts no reset has no reset edge next. -/
theorem NoReset.head {s : State} (h : NoReset s) (v : Bool) (w : Word) (x : Operand) (rest : List Input) :
    s.inputs ≠ .edge true v w x :: rest :=
  fun hi => nomatch h (.edge true v w x) (hi ▸ List.mem_cons_self)

/-- The state after the edges that are left, where the work of the command is done. -/
def afterLastEdge (s : State) : State := completeCommand { s with inputs := afterEdge^[s.left] s.inputs }

theorem afterLastEdge_busy (s : State) : (afterLastEdge s).busy = false := rfl

theorem afterLastEdge_inputs (s : State) : (afterLastEdge s).inputs = afterEdge^[s.left] s.inputs :=
  completeCommand_inputs _

theorem afterLastEdge_succ {s : State} {n : Nat} (h : s.left = n + 1) :
    afterLastEdge s = afterLastEdge { s with inputs := afterEdge s.inputs, left := n } := by
  rw [afterLastEdge, h, Function.iterate_succ_apply, afterLastEdge, ← completeCommand_withLeft n]

/-- With its work done, a command takes as many edges as are left, the last of them the completing edge (R71, R240). -/
theorem busyRun_left {s : State} (hb : s.busy = true) (hs : s.stage = .settled) (hleft : 1 ≤ s.left) (hreset : NoReset s) :
    BusyRun s.left s (afterLastEdge s) := by
  obtain ⟨n, hn⟩ : ∃ n, s.left = n + 1 := ⟨s.left - 1, by omega⟩
  rw [hn]
  clear hleft
  induction n generalizing s with
  | zero =>
    have hstep : step s = .next (afterLastEdge s) := by
      rw [step_of_busy hb hreset.head, busyStep_of_settled hs, busyEdge, if_pos (by omega), afterLastEdge, hn]
      rfl
    exact .head hb hstep (.refl _)
  | succ n ih =>
    have hstep : step s = .next { s with inputs := afterEdge s.inputs, left := n + 1 } := by
      rw [step_of_busy hb hreset.head, busyStep_of_settled hs, busyEdge, if_neg (by omega), hn]
      rfl
    rw [afterLastEdge_succ hn]
    exact .head hb hstep (ih hb hs (fun i hi => hreset i (mem_of_mem_afterEdge hi)) rfl)

/-- From a busy state on, the micro-operations and the edges left are the run of the command to its completing edge. -/
theorem busyRun_complete {s : State} (hb : s.busy = true) (hi : s.stage ≠ .idle) (hleft : 1 ≤ s.left) (hreset : NoReset s) :
    BusyRun (microOpsLeft s + s.left) s (afterLastEdge (settle s)) := by
  obtain ⟨-, -, hbusy, -, hl, hin⟩ := settle_sameCommand s
  have hrun := busyRun_left (s := settle s) (hbusy.trans hb) (settle_stage s) (by rwa [hl])
    (by rw [NoReset, hin]; exact hreset)
  rw [hl] at hrun
  exact (busyRun_settle hb hi hreset.head).trans hrun

/-- Settles O37: the invariant puts a busy engine into a stage of its command, with an edge still to come. -/
theorem everyCommandCompletes : Obligations.EveryCommandCompletes := by
  intro s hi hreset hb
  have hrun := busyRun_complete hb (hi.busyMatchesStage.1 hb) (hi.edgesLeft hb) hreset
  exact ⟨_, _, Nat.add_le_add_right (microOpsLeft_le s) s.left, hrun.runSteps, afterLastEdge_busy _⟩

/-! ## From the accepting edge on -/

theorem microOpsLeft_startCommand (w : Word) (x : Operand) (s : State) :
    microOpsLeft (startCommand w x s) = (disposition s.phase w).microOps := by
  unfold startCommand
  cases disposition s.phase w <;> rfl

/-- The run of an accepted command, from the state after its accepting edge (R71, R240). -/
theorem busyRun_startCommand (w : Word) (x : Operand) {s : State} (hreset : NoReset s) :
    BusyRun ((disposition s.phase w).microOps + (disposition s.phase w).latency) (startCommand w x s)
      (afterLastEdge (settle (startCommand w x s))) := by
  obtain ⟨hidle, -⟩ := firstStage_ne (disposition s.phase w)
  have hrun := busyRun_complete (startCommand_busy w x s) (by rwa [startCommand_stage])
    (by rw [startCommand_left]; exact latency_pos _) (by rw [NoReset, startCommand_inputs]; exact hreset)
  rwa [microOpsLeft_startCommand, startCommand_left] at hrun

theorem afterLastEdge_settle_startCommand_inputs (w : Word) (x : Operand) (s : State) :
    (afterLastEdge (settle (startCommand w x s))).inputs = afterEdge^[(disposition s.phase w).latency] s.inputs := by
  obtain ⟨-, -, -, -, hl, hin⟩ := settle_sameCommand (startCommand w x s)
  rw [afterLastEdge_inputs, hl, hin, startCommand_left, startCommand_inputs]

/-- Settles O36: the three parts are the edges left, one micro-operation, and both after the accepting edge. -/
theorem busyLastsTheLatency : Obligations.BusyLastsTheLatency := by
  refine ⟨fun s hb hs hleft hedges => ?_, fun s hb hs hi hreset => ?_, fun s w data edges hb hin hedges => ?_⟩
  · have hrun := busyRun_left hb hs hleft fun i hi => not_reset_of_edgeWithoutReset (hedges i hi)
    refine ⟨fun k hk => ?_, _, hrun.runSteps, afterLastEdge_busy s, ?_⟩
    · obtain ⟨t, ht, hbusy, -⟩ := hrun.state_of_lt hk
      exact ⟨t, ht, hbusy⟩
    · rw [afterLastEdge_inputs, afterEdge_iterate _ hedges]
  · obtain ⟨t, ht⟩ := exists_microOp hs hi
    exact ⟨t, (step_of_busy hb hreset).trans ht.busyStep, ht.same.busy.trans hb, ht.same.left, ht.same.inputs⟩
  · have hstep := step_of_ready_edge hb hin
    have hrun := busyRun_startCommand w data (s := { s with inputs := edges })
      fun i hi => not_reset_of_edgeWithoutReset (hedges i hi)
    dsimp only at hrun ⊢
    rw [Nat.add_assoc, Nat.add_comm 1]
    refine ⟨⟨_, (runSteps_succ_of_step hstep).trans hrun.runSteps, afterLastEdge_busy _, ?_⟩, fun k hk hlt => ?_⟩
    · rw [afterLastEdge_settle_startCommand_inputs]
      exact afterEdge_iterate _ hedges
    · obtain ⟨j, rfl⟩ : ∃ j, k = j + 1 := ⟨k - 1, by omega⟩
      obtain ⟨t, ht, hbusy, -⟩ := hrun.state_of_lt (Nat.lt_of_succ_lt_succ hlt)
      exact ⟨t, (runSteps_succ_of_step hstep).trans ht, hbusy⟩

/-! ## Edge by edge or as one transaction (log 3) -/

/-- The second block of CHUNK.FINAL2, on the state after the first (R157). -/
theorem settle_startBlock_first (block : List Byte) (s : State) :
    settle (startBlock .firstRounds block s)
      = { compressState (pad2Second s.len) (compressState block s) with rc := 63, p2pend := false, stage := .settled } := by
  rw [settle_of_firstRounds rfl, chainState_afterRounds_startBlock]
  rfl

theorem settle_startBlock_last (block : List Byte) (s : State) :
    settle (startBlock .lastRounds block s) = { compressState block s with rc := 63, stage := .settled } := by
  rw [settle_of_lastRounds rfl, chainState_afterRounds_startBlock]

/-- The work of a command and the outcome of its completing edge are what one transaction does, but for RC and the stage
(log 7, log 10). -/
theorem writeOutcome_settle_startWork (d : Disposition) {s : State} (hp : s.p2pend = false) :
    ∃ r, writeOutcome d (settle (startWork d s)) = { carryOut d s with rc := r, stage := .settled } := by
  cases d with
  | ignored => exact ⟨s.rc, rfl⟩
  | fails e => exact ⟨s.rc, rfl⟩
  | init => exact ⟨s.rc, rfl⟩
  | absorb => exact ⟨63, settle_startBlock_last _ _⟩
  | final1 n => exact ⟨63, congrArg finish (settle_startBlock_last _ _)⟩
  | final2 n =>
    refine ⟨63, (congrArg finish (settle_startBlock_first _ _)).trans ?_⟩
    simp [carryOut, final2Effect, finish, compressState, countBits, hp]

/-- BUSY and the edges left have no part in what a transaction does. -/
theorem carryOut_withBusyLeft (d : Disposition) (b : Bool) (n : Nat) (s : State) :
    carryOut d { s with busy := b, left := n } = { carryOut d s with busy := b, left := n } := by
  cases d with
  | absorb => simp [carryOut, absorbEffect, compressState, countBits]
  | _ => rfl

/-- At a boundary the fields that a completing edge sets are those that a transaction leaves. -/
theorem release_of_boundary {s : State} (hb : s.busy = false) (hs : s.stage = .idle) (r : BitVec 6) (n : Nat) :
    release { s with busy := false, stage := .idle, left := n, rc := r } = { release s with rc := r, left := n } := by
  simp [release, hb, hs]

theorem afterLastEdge_of_no_inputs {s : State} (hi : s.inputs = []) : afterLastEdge s = completeCommand s := by
  rw [afterLastEdge, hi, Function.iterate_fixed (f := afterEdge) (x := []) rfl, ← hi]

/-- Where the host does nothing else, the run of an accepted command ends in the state that the command gives as one transaction,
but for RC and the edges left (log 3). -/
theorem afterLastEdge_settle_startCommand (w : Word) (x : Operand) {s : State} (hs : AtBoundary s) (hi : s.inputs = []) :
    ∃ r, afterLastEdge (settle (startCommand w x s))
      = { release (carryOut (disposition s.phase w) (capture w x s)) with rc := r, left := 0 } := by
  obtain ⟨hbusy, hstage, hp⟩ := hs
  obtain ⟨hphase, -, -, hcmd, -, hin⟩ := settle_sameCommand (startCommand w x s)
  rw [startCommand_phase] at hphase
  rw [startCommand_cmdLatch] at hcmd
  obtain ⟨r, hr⟩ := writeOutcome_settle_startWork (disposition s.phase w)
    (s := { capture w x s with busy := true, left := (disposition s.phase w).latency }) hp
  rw [carryOut_withBusyLeft] at hr
  have hcontrol := carryOut_sameControl (disposition s.phase w) (capture w x s)
  refine ⟨r, ?_⟩
  rw [afterLastEdge_of_no_inputs (hin.trans ((startCommand_inputs w x s).trans hi)), completeCommand, hphase, hcmd,
    ← release_of_boundary (hcontrol.busy.trans hbusy) (hcontrol.stage.trans hstage), startCommand, hr]

/-- Settles O39: the accepting edge, then the run of the command. -/
theorem edgeByEdgeRunIsTheTransaction : Obligations.EdgeByEdgeRunIsTheTransaction := by
  intro s w data hs hin
  obtain ⟨hbusy, hstage, hp⟩ := hs
  have hstep := step_of_ready_edge hbusy hin
  have hrun := busyRun_startCommand w data (s := { s with inputs := [] }) (fun i hi => nomatch hi)
  obtain ⟨r, hend⟩ := afterLastEdge_settle_startCommand w data (s := { s with inputs := [] }) ⟨hbusy, hstage, hp⟩ rfl
  have hcontrol := carryOut_sameControl (disposition s.phase w) (capture w data { s with inputs := [] })
  rw [hend] at hrun
  refine ⟨_, _, _, (runSteps_succ_of_step hstep).trans hrun.runSteps, acceptCommand_eq_carryOut w data _, rfl,
    ⟨hcontrol.busy.trans hbusy, hcontrol.stage.trans hstage, hcontrol.p2pend.trans hp⟩, fun j hj hlt => ?_⟩
  obtain ⟨i, rfl⟩ : ∃ i, j = i + 1 := ⟨j - 1, by omega⟩
  obtain ⟨v, hv, hvbusy, hphase, herr⟩ := hrun.state_of_lt (Nat.lt_of_succ_lt_succ hlt)
  exact ⟨v, (runSteps_succ_of_step hstep).trans hv, hvbusy, hphase.trans (startCommand_phase _ _ _),
    herr.trans (startCommand_err _ _ _)⟩

/-! ## Acceptance (R71, R235) -/

theorem startCommand_dataLatch (w : Word) (x : Operand) (s : State) :
    (startCommand w x s).dataLatch = if samplesData w then x else s.dataLatch := by
  rw [startCommand, startWork_frame, capture_dataLatch]

theorem advanceRound_withInputs (next : Stage) (l : List Input) (s : State) :
    advanceRound next { s with inputs := l } = { advanceRound next s with inputs := l } := by
  unfold advanceRound
  split <;> rfl

/-- A round neither reads nor writes the host's list. -/
theorem advanceRound_runRound_withInputs (next : Stage) (fn : Word → Word → Word → Word) (i : BitVec 6) (l : List Input)
    (s : State) :
    advanceRound next (runRound fn i { s with inputs := l })
      = { advanceRound next (runRound fn i s) with inputs := l } :=
  advanceRound_withInputs next l (runRound fn i s)

theorem busyEdge_inputs (s : State) : (busyEdge s).inputs = afterEdge s.inputs := by
  unfold busyEdge
  split
  · exact completeCommand_inputs _
  · rfl

/-- A counted edge reads of the host's list only what stays of it. -/
theorem busyEdge_withInputs {l : List Input} {s : State} (h : afterEdge l = afterEdge s.inputs) :
    busyEdge { s with inputs := l } = busyEdge s := by
  rw [busyEdge, busyEdge, ← h]

/-- A micro-operation neither reads nor writes the host's list; otherwise the step is a counted edge (log 4). -/
theorem busyStep_withInputs (l : List Input) (s : State) :
    (∃ t, busyStep s = .next t ∧ t.inputs = s.inputs ∧ busyStep { s with inputs := l } = .next { t with inputs := l })
    ∨ (busyStep s = .next (busyEdge s) ∧ busyStep { s with inputs := l } = .next (busyEdge { s with inputs := l })) := by
  obtain ⟨h, hs⟩ | ⟨h, hs⟩ | ⟨h, hs⟩ | ⟨h, hs⟩ | ⟨h, hs⟩ | ⟨h, hs⟩ := busyStep_cases s
  · have hl := busyStep_of_firstRounds (s := { s with inputs := l }) h
    exact .inl ⟨_, hs, (advanceRound_runRound_sameCommand _ _ _ s).inputs,
      hl.trans (congrArg Host.Outcome.next (advanceRound_runRound_withInputs _ _ _ l s))⟩
  · exact .inl ⟨_, hs, rfl, busyStep_of_firstChain h⟩
  · exact .inl ⟨_, hs, rfl, busyStep_of_between h⟩
  · have hl := busyStep_of_lastRounds (s := { s with inputs := l }) h
    exact .inl ⟨_, hs, (advanceRound_runRound_sameCommand _ _ _ s).inputs,
      hl.trans (congrArg Host.Outcome.next (advanceRound_runRound_withInputs _ _ _ l s))⟩
  · exact .inl ⟨_, hs, rfl, busyStep_of_lastChain h⟩
  · refine .inr ⟨hs, ?_⟩
    obtain h | h := h <;> simp [busyStep, h]

/-- A command on the pins of an edge while BUSY = 1 is not read: the step is that of an edge without a command, but for that edge
itself where it is still to pass (R71, R235). -/
theorem step_of_busy_edge {s : State} {w : Word} {x : Operand} {rest : List Input} (hb : s.busy = true)
    (hi : s.inputs = .edge false true w x :: rest) :
    ∃ t u, step s = .next t ∧ step { s with inputs := .edge false false 0 0 :: rest } = .next u
      ∧ t = { u with inputs := t.inputs }
      ∧ ((t.inputs = s.inputs ∧ u.inputs = .edge false false 0 0 :: rest) ∨ (t.inputs = rest ∧ u.inputs = rest)) := by
  have hstep : step { s with inputs := .edge false false 0 0 :: rest }
      = busyStep { s with inputs := .edge false false 0 0 :: rest } := step_of_busy hb (by simp)
  rw [step_of_busy hb (by simp [hi]), hstep]
  obtain ⟨t, ht, hin, hu⟩ | ⟨ht, hu⟩ := busyStep_withInputs (.edge false false 0 0 :: rest) s
  · exact ⟨t, _, ht, hu, rfl, .inl ⟨hin, rfl⟩⟩
  · have hsame : afterEdge (.edge false false 0 0 :: rest) = afterEdge s.inputs := by rw [hi]; rfl
    rw [busyEdge_withInputs hsame] at hu
    have hin : (busyEdge s).inputs = rest := by rw [busyEdge_inputs, hi]; rfl
    exact ⟨_, _, ht, hu, rfl, .inr ⟨hin, hin⟩⟩

/-- A command held on the port while BUSY = 1 stays there (R71). -/
theorem inputs_of_held_command {s t : State} {w : Word} {x : Operand} {rest : List Input} (hb : s.busy = true)
    (hi : s.inputs = .command w x :: rest) (h : step s = .next t) : t.inputs = s.inputs := by
  rw [step_of_busy hb (by simp [hi])] at h
  obtain ⟨u, hu, hin, -⟩ | ⟨hu, -⟩ := busyStep_withInputs [] s <;> rw [hu] at h <;>
    obtain rfl := Host.Outcome.next.inj h
  · exact hin
  · rw [busyEdge_inputs, hi]
    rfl

/-- Settles O34: an edge is ready exactly where BUSY = 0 and no reset is next; the other clauses are the other kinds of an edge. -/
theorem acceptanceAtAReadyEdge : Obligations.AcceptanceAtAReadyEdge := by
  refine ⟨fun s w data rest hready hi => ?_, fun s t w data rest hready hi h => ?_,
    fun s w data rest hb hi => step_of_busy_edge hb hi, fun s w data rest hb hi => step_of_idle_edge hb hi,
    fun s valid w data rest hi => ⟨_, step_reset hi, rfl, rfl⟩⟩
  · obtain ⟨hb, -⟩ := (commandReady s).1 hready
    refine ⟨_, step_of_ready_edge hb hi, startCommand_busy _ _ _, startCommand_cmdLatch _ _ _, startCommand_inputs _ _ _,
      startCommand_phase _ _ _, startCommand_err _ _ _, fun hchunk => ?_, startCommand_left _ _ _, ?_⟩
    · rw [startCommand_dataLatch, samplesData_eq, decide_eq_true hchunk, if_pos rfl]
    · rw [startCommand_left]
      exact latency_pos _
  · have hb : s.busy = true := by
      by_contra hidle
      have hready' : cmdReady s = true := (commandReady s).2 ⟨by simpa using hidle, by simp [hi]⟩
      exact nomatch hready.symm.trans hready'
    exact inputs_of_held_command hb hi h

end Sys2Proof.Machine
end

section
/-! The statement about the transient state (10_state.md R27 to R29, 43_commands.md R164): two engines that may differ in it show the
same outputs. The relation between them has three cases: no command in progress, a command that compresses, a command whose work is
done. -/

namespace Sys2Proof.Machine

/-- Two engines that the host cannot tell apart. At a boundary only the tuple and the host's list count; while a command is in
progress nobody reads P2PEND, and once its work is done nobody reads RC, M, the working registers and the captured operand. -/
inductive Alike : State → State → Prop
  | boundary {s s' : State} (harch : s.arch = s'.arch) (hin : s.inputs = s'.inputs) (hb : s.busy = false)
    (hb' : s'.busy = false) : Alike s s'
  | working (s : State) (p : Bool) (hb : s.busy = true) : Alike s { s with p2pend := p }
  | waiting (s : State) (p : Bool) (work : Quad) (msg : Vector Word 16) (rc : BitVec 6) (x : Operand) (hb : s.busy = true)
    (hs : s.stage = .settled ∨ s.stage = .idle) :
    Alike s { s with p2pend := p, work := work, msg := msg, rc := rc, dataLatch := x }

/-- What the host sees of two such engines is the same. -/
theorem Alike.observed {s s' : State} (h : Alike s s') : s'.arch = s.arch ∧ s'.inputs = s.inputs ∧ s'.busy = s.busy := by
  cases h with
  | boundary harch hin hb hb' => exact ⟨harch.symm, hin.symm, hb'.trans hb.symm⟩
  | working p hb => exact ⟨rfl, rfl, rfl⟩
  | waiting p work msg rc x hb hs => exact ⟨rfl, rfl, rfl⟩

/-! ## A step while BUSY = 1 -/

theorem advanceRound_withP2pend (next : Stage) (p : Bool) (s : State) :
    advanceRound next { s with p2pend := p } = { advanceRound next s with p2pend := p } := by
  unfold advanceRound
  split <;> rfl

/-- A round reads P2PEND nowhere (R114). -/
theorem alike_round (next : Stage) (fn : Word → Word → Word → Word) (i : BitVec 6) {s : State} (p : Bool) (hb : s.busy = true) :
    Alike (advanceRound next (runRound fn i s)) (advanceRound next (runRound fn i { s with p2pend := p })) := by
  have hround : advanceRound next (runRound fn i { s with p2pend := p })
      = { advanceRound next (runRound fn i s) with p2pend := p } := advanceRound_withP2pend next p (runRound fn i s)
  rw [hround]
  exact .working _ p ((advanceRound_runRound_sameCommand next fn i s).busy.trans hb)

/-- The outcome of a command on the tuple reads the tuple only (R150). -/
theorem completeCommand_arch_waiting (s : State) (p : Bool) (work : Quad) (msg : Vector Word 16) (rc : BitVec 6) (x : Operand) :
    (completeCommand { s with p2pend := p, work := work, msg := msg, rc := rc, dataLatch := x }).arch
      = (completeCommand s).arch := by
  unfold completeCommand
  dsimp only
  cases disposition s.phase s.cmdLatch <;> rfl

/-- A counted edge keeps two engines alike whose work is done. -/
theorem alike_busyEdge (s : State) (p : Bool) (work : Quad) (msg : Vector Word 16) (rc : BitVec 6) (x : Operand)
    (hb : s.busy = true) (hs : s.stage = .settled ∨ s.stage = .idle) :
    Alike (busyEdge s) (busyEdge { s with p2pend := p, work := work, msg := msg, rc := rc, dataLatch := x }) := by
  unfold busyEdge
  dsimp only
  split
  · refine .boundary (completeCommand_arch_waiting { s with inputs := afterEdge s.inputs } p work msg rc x).symm ?_ rfl rfl
    rw [completeCommand_inputs, completeCommand_inputs]
  · exact .waiting { s with inputs := afterEdge s.inputs, left := s.left - 1 } p work msg rc x hb hs

theorem busyStep_of_done_work {s : State} (h : s.stage = .settled ∨ s.stage = .idle) : busyStep s = .next (busyEdge s) := by
  obtain h | h := h <;> simp [busyStep, h]

/-- A micro-operation reads P2PEND nowhere (R30). -/
theorem alike_busyStep_working {s t : State} (p : Bool) (hb : s.busy = true) (h : busyStep s = .next t) :
    ∃ t', busyStep { s with p2pend := p } = .next t' ∧ Alike t t' := by
  obtain ⟨hs, h'⟩ | ⟨hs, h'⟩ | ⟨hs, h'⟩ | ⟨hs, h'⟩ | ⟨hs, h'⟩ | ⟨hs, h'⟩ := busyStep_cases s
  all_goals rw [h'] at h; obtain rfl := Host.Outcome.next.inj h
  · exact ⟨_, busyStep_of_firstRounds (s := { s with p2pend := p }) hs, alike_round _ _ _ p hb⟩
  · exact ⟨_, busyStep_of_firstChain (s := { s with p2pend := p }) hs, .working _ true hb⟩
  · exact ⟨_, busyStep_of_between (s := { s with p2pend := p }) hs, .working _ false hb⟩
  · exact ⟨_, busyStep_of_lastRounds (s := { s with p2pend := p }) hs, alike_round _ _ _ p hb⟩
  · exact ⟨_, busyStep_of_lastChain (s := { s with p2pend := p }) hs, .working _ p hb⟩
  · exact ⟨_, busyStep_of_done_work (s := { s with p2pend := p }) hs, alike_busyEdge s p s.work s.msg s.rc s.dataLatch hb hs⟩

theorem Alike.busyStep {s s' t : State} (h : Alike s s') (hb : s.busy = true) (hstep : busyStep s = .next t) :
    ∃ t', Machine.busyStep s' = .next t' ∧ Alike t t' := by
  cases h with
  | boundary harch hin hidle hb' => exact nomatch hb.symm.trans hidle
  | working p hb => exact alike_busyStep_working p hb hstep
  | waiting p work msg rc x hb hs =>
    rw [busyStep_of_done_work hs] at hstep
    obtain rfl := Host.Outcome.next.inj hstep
    exact ⟨_, busyStep_of_done_work
      (s := { s with p2pend := p, work := work, msg := msg, rc := rc, dataLatch := x }) hs,
      alike_busyEdge s p work msg rc x hb hs⟩

/-! ## A step while BUSY = 0 -/

/-- A command that compresses writes all that its rounds read (R132, R133), from a sampled operand (R52). -/
theorem startWork_of_compressing {d : Disposition} (hd : d = .absorb ∨ (∃ n, d = .final1 n) ∨ ∃ n, d = .final2 n) (s : State)
    (work : Quad) (msg : Vector Word 16) (rc : BitVec 6) (p : Bool) (stage : Stage) :
    startWork d { s with work := work, msg := msg, rc := rc, p2pend := p, stage := stage }
      = { startWork d s with p2pend := p } := by
  obtain rfl | ⟨n, rfl⟩ | ⟨n, rfl⟩ := hd <;> simp [startWork, startBlock, loadBlock, countBits]

/-- A command that does not compress has nothing to do (R207, R208). -/
theorem startWork_of_not_compressing {d : Disposition} (hd : d = .ignored ∨ (∃ e, d = .fails e) ∨ d = .init) (s : State) :
    startWork d s = { s with stage := .settled } := by
  obtain rfl | ⟨e, rfl⟩ | rfl := hd <;> rfl

/-- A word that compresses is a CHUNK's, so DATA is sampled for it (R52, R76). -/
theorem samplesData_of_compressing {p : Phase} {w : Word}
    (h : disposition p w = .absorb ∨ (∃ n, disposition p w = .final1 n) ∨ ∃ n, disposition p w = .final2 n) :
    samplesData w = true := by
  have hfail (e : ErrCode) (hd : disposition p w = failDisposition e p) : samplesData w = true := by
    obtain ⟨-, hf⟩ | ⟨-, hf⟩ := failDisposition_cases e p <;> simp [hd, hf] at h
  obtain ⟨rfl, -⟩ | ⟨rfl, -⟩ | ⟨hop, hres, -⟩ | ⟨-, r, hd⟩ := decodeCommand_cases w
  · simp [show disposition p 0x00000001#32 = .init from rfl] at h
  · exact hfail .sourceAbort rfl
  · simp [samplesData, hop, hres]
  · exact hfail .illegalCommand (disposition_of_reject p hd)

/-- The state in which the accepting edge starts the work of a command (R71). -/
def accepted (w : Word) (x : Operand) (s : State) : State :=
  { capture w x s with busy := true, left := (disposition s.phase w).latency }

theorem startCommand_eq_startWork (w : Word) (x : Operand) (s : State) :
    startCommand w x s = startWork (disposition s.phase w) (accepted w x s) := rfl

/-- Where DATA is sampled, the accepting edge writes over both captured places (R52). -/
theorem accepted_of_sampled {w : Word} (x : Operand) {s s' : State} (hw : samplesData w = true) (harch : s.arch = s'.arch)
    (hin : s.inputs = s'.inputs) :
    accepted w x s' = { accepted w x s with
      work := s'.work, msg := s'.msg, rc := s'.rc, p2pend := s'.p2pend, stage := s'.stage } := by
  obtain ⟨hh, hlen, hphase, herr⟩ := Arch.mk.inj harch
  simp [accepted, capture, hw, hh, hlen, hphase, herr, hin]

theorem accepted_of_not_compressing (w : Word) (x : Operand) {s s' : State} (harch : s.arch = s'.arch)
    (hin : s.inputs = s'.inputs) :
    { accepted w x s' with stage := .settled } = { accepted w x s with
      stage := .settled
      p2pend := s'.p2pend
      work := s'.work
      msg := s'.msg
      rc := s'.rc
      dataLatch := (accepted w x s').dataLatch } := by
  obtain ⟨hh, hlen, hphase, herr⟩ := Arch.mk.inj harch
  simp [accepted, capture, hh, hlen, hphase, herr, hin]

/-- The accepting edge leaves two engines alike: what a compression reads is written, the rest is never read. -/
theorem alike_startCommand (w : Word) (x : Operand) {s s' : State} (harch : s.arch = s'.arch) (hin : s.inputs = s'.inputs) :
    Alike (startCommand w x s) (startCommand w x s') := by
  have hphase : s'.phase = s.phase := (congrArg Arch.phase harch).symm
  have hbusy := startCommand_busy w x s
  rw [startCommand_eq_startWork] at hbusy ⊢
  rw [startCommand_eq_startWork w x s', hphase]
  have hdone (hd : disposition s.phase w = .ignored ∨ (∃ e, disposition s.phase w = .fails e) ∨ disposition s.phase w = .init) :
      Alike (startWork (disposition s.phase w) (accepted w x s)) (startWork (disposition s.phase w) (accepted w x s')) := by
    rw [startWork_of_not_compressing hd, startWork_of_not_compressing hd, accepted_of_not_compressing w x harch hin]
    exact .waiting { accepted w x s with stage := .settled } _ _ _ _ _ rfl (.inl rfl)
  obtain ⟨-, hd⟩ | ⟨-, hd⟩ | ⟨-, e, -, hd⟩ | ⟨-, hd⟩ := disposition_cases s.phase w
  · exact hdone (.inr (.inr hd))
  · exact hdone (.inl hd)
  · exact hdone (.inr (.inl ⟨e, hd⟩))
  · rw [accepted_of_sampled x (samplesData_of_compressing hd) harch hin,
      startWork_of_compressing hd (accepted w x s) s'.work s'.msg s'.rc s'.p2pend s'.stage]
    exact .working _ _ hbusy

/-- What the host does next leaves two engines alike at a boundary. -/
theorem alike_idleStep {s s' t : State} (harch : s.arch = s'.arch) (hin : s.inputs = s'.inputs) (hb : s.busy = false)
    (hb' : s'.busy = false) (h : idleStep s = .next t) : ∃ t', idleStep s' = .next t' ∧ Alike t t' := by
  unfold idleStep at h ⊢
  rw [← hin]
  rcases hi : s.inputs with _ | ⟨⟨w, x⟩ | ⟨r, v, w, x⟩, rest⟩ <;> rw [hi] at h
  · obtain rfl := Host.Outcome.next.inj h
    exact ⟨s', rfl, .boundary harch hin hb hb'⟩
  · obtain ⟨t', ht'⟩ := acceptCommand_next w x { s' with inputs := rest }
    obtain ⟨htb, hti⟩ := acceptCommand_busy_inputs h
    obtain ⟨htb', hti'⟩ := acceptCommand_busy_inputs ht'
    refine ⟨t', ht', .boundary ?_ (hti.trans hti'.symm) (htb.trans hb) (htb'.trans hb')⟩
    rw [acceptCommand_arch h, acceptCommand_arch ht']
    exact congrArg (Arch.commandStep · w x) harch
  · cases v <;> obtain rfl := Host.Outcome.next.inj h
    · exact ⟨_, rfl, .boundary harch rfl hb hb'⟩
    · exact ⟨_, rfl, alike_startCommand w x harch rfl⟩

/-! ## Runs -/

/-- A step keeps two engines alike. -/
theorem Alike.step {s s' t : State} (h : Alike s s') (hstep : step s = .next t) :
    ∃ t', Machine.step s' = .next t' ∧ Alike t t' := by
  obtain ⟨-, hin, hbusy⟩ := h.observed
  obtain ⟨v, w, x, rest, hi, hs⟩ | ⟨hreset, ⟨hb, hs⟩ | ⟨hb, hs⟩⟩ := step_cases s
  all_goals rw [hs] at hstep
  · obtain rfl := Host.Outcome.next.inj hstep
    exact ⟨_, step_reset (hin.trans hi), .boundary rfl rfl rfl rfl⟩
  · rw [step_of_busy (hbusy.trans hb) (hin ▸ hreset)]
    exact h.busyStep hb hstep
  · rw [step_of_idle (hbusy.trans hb) (hin ▸ hreset)]
    cases h with
    | boundary harch hin hb hb' => exact alike_idleStep harch hin hb hb' hstep
    | working p hb' => exact nomatch hb.symm.trans hb'
    | waiting p work msg rc x hb' hs => exact nomatch hb.symm.trans hb'

theorem Alike.runSteps {k : Nat} {s s' t : State} (h : Alike s s') (hrun : runSteps k s = .next t) :
    ∃ t', Machine.runSteps k s' = .next t' ∧ Alike t t' := by
  induction k generalizing s s' with
  | zero =>
    obtain rfl := Host.Outcome.next.inj hrun
    exact ⟨s', rfl, h⟩
  | succ k ih =>
    obtain ⟨u, hu⟩ := everyStepAnswersANextState s
    rw [runSteps_succ_of_step hu] at hrun
    obtain ⟨u', hu', halike⟩ := h.step hu
    obtain ⟨t', ht', hend⟩ := ih halike hrun
    exact ⟨t', (runSteps_succ_of_step hu').trans ht', hend⟩

/-- Settles O29: at a boundary the engines are alike, every step keeps them alike, and the outputs show only what is alike. -/
theorem transientStateIsNeverObserved : Obligations.TransientStateIsNeverObserved := by
  intro k s s' t hs hs' harch hin hrun
  obtain ⟨hb, -⟩ := hs
  obtain ⟨hb', -⟩ := hs'
  obtain ⟨t', ht', halike⟩ := (Alike.boundary harch hin hb hb').runSteps hrun
  obtain ⟨harch', hin', hbusy'⟩ := halike.observed
  obtain ⟨hstatus, hdigest⟩ := status_digest_congr harch' hbusy'
  exact ⟨t', ht', harch', hstatus, hdigest, by rw [cmdReady, cmdReady, rstPin, rstPin, hbusy', hin']⟩

end Sys2Proof.Machine
end

section
/-! The statements about the rounds' parts (41_round_functions.md R100 to R108) and about a round as a bijection of the working
registers (R114): a rotation is undone by the rotation to the other side, and the sum by subtraction, since `b`, `c` and `d` are
carried over. -/

namespace Sys2Proof.Machine

/-! ## A round is undone by a round backwards -/

/-- For the amounts of a round `rotl` is the library's rotation (R11). -/
theorem rotl_eq_rotateLeft (x : Word) {r : Nat} (h : r < 32) : rotl x r = x.rotateLeft r := by
  rw [rotl, BitVec.rotateLeft_def, Nat.mod_eq_of_lt h]

theorem rotateRight_rotateLeft_self (x : Word) (r : Nat) : (x.rotateLeft r).rotateRight r = x := by
  ext k hk
  rw [BitVec.getElem_rotateRight]
  split <;> rw [BitVec.getElem_rotateLeft]
  · rw [dif_neg (by omega)]
    congr 1
    omega
  · rw [dif_pos (by omega)]
    congr 1
    omega

theorem rotateLeft_rotateRight_self (x : Word) (r : Nat) : (x.rotateRight r).rotateLeft r = x := by
  ext k hk
  rw [BitVec.getElem_rotateLeft]
  split <;> rw [BitVec.getElem_rotateRight]
  · rw [dif_neg (by omega)]
    congr 1
    omega
  · rw [dif_pos (by omega)]
    congr 1
    omega

/-- A round backwards: `b`, `c` and `d` stand in the result, and `a` is what is left of the sum (R109). -/
def roundBack (fn : Word → Word → Word → Word) (i : BitVec 6) (m : Vector Word 16) (q : Quad) : Quad :=
  #v[(q[1] - q[2]).rotateRight (srom i).toNat - m.get (messageIndex i) - krom i - fn q[2] q[3] q[0], q[2], q[3], q[0]]

/-- A quad is its four words. -/
theorem quad_eta (q : Quad) : #v[q[0], q[1], q[2], q[3]] = q := by
  ext k hk
  interval_cases k <;> rfl

theorem roundBack_roundStep (fn : Word → Word → Word → Word) (i : BitVec 6) (m : Vector Word 16) (q : Quad) :
    roundBack fn i m (roundStep fn i m q) = q := by
  have hrot := rotateRight_rotateLeft_self
    (fn q[1] q[2] q[3] + q[0] + krom i + m.get (messageIndex i)) (srom i).toNat
  rw [← rotl_eq_rotateLeft _ (srom i).isLt] at hrot
  rw [← quad_eta q]
  simp [roundBack, roundStep, hrot]

theorem roundStep_roundBack (fn : Word → Word → Word → Word) (i : BitVec 6) (m : Vector Word 16) (q : Quad) :
    roundStep fn i m (roundBack fn i m q) = q := by
  have hrot := rotateLeft_rotateRight_self (q[1] - q[2]) (srom i).toNat
  rw [← rotl_eq_rotateLeft _ (srom i).isLt] at hrot
  rw [← quad_eta q]
  simp [roundBack, roundStep, hrot]

/-- A round step is a bijection of the working registers for each M (R114). -/
theorem roundStep_bijective (fn : Word → Word → Word → Word) (i : BitVec 6) (m : Vector Word 16) :
    Function.Bijective (roundStep fn i m) :=
  Function.bijective_iff_has_inverse.2 ⟨roundBack fn i m, roundBack_roundStep fn i m, roundStep_roundBack fn i m⟩

/-- The rounds are the micro-operations of the four groups (R82). -/
theorem eq_roundInstr_of_isRound {i : Instr} (h : i.isRound = true) : ∃ grp pos, i = roundInstr grp pos := by
  cases i with
  | roundF pos => exact ⟨.f, pos, rfl⟩
  | roundG pos => exact ⟨.g, pos, rfl⟩
  | roundH pos => exact ⟨.h, pos, rfl⟩
  | roundI pos => exact ⟨.i, pos, rfl⟩
  | _ => exact nomatch h

/-- Settles O42: every round micro-operation is the round step of its group at its index. -/
theorem roundsAreBijections : Obligations.RoundsAreBijections := by
  intro i hi
  obtain ⟨grp, pos, rfl⟩ := eq_roundInstr_of_isRound hi
  exact ⟨roundStep (roundFun grp) (roundIndex grp pos), exec_roundInstr grp pos, roundStep_bijective _ _⟩

/-! ## The functions, the message words and the rotation amounts -/

theorem getLsbD_funF (b c d : Word) {j : Nat} (hj : j < 32) :
    (funF b c d).getLsbD j = if b.getLsbD j then c.getLsbD j else d.getLsbD j := by
  simp only [funF, BitVec.getLsbD_or, BitVec.getLsbD_and, BitVec.getLsbD_not, hj]
  cases b.getLsbD j <;> simp

theorem getLsbD_funG (b c d : Word) {j : Nat} (hj : j < 32) :
    (funG b c d).getLsbD j = if d.getLsbD j then b.getLsbD j else c.getLsbD j := by
  simp only [funG, BitVec.getLsbD_or, BitVec.getLsbD_and, BitVec.getLsbD_not, hj]
  cases d.getLsbD j <;> simp

theorem getLsbD_funH (b c d : Word) (j : Nat) :
    (funH b c d).getLsbD j = ((b.getLsbD j != c.getLsbD j) != d.getLsbD j) := by
  simp only [funH, BitVec.getLsbD_xor]

theorem getLsbD_funI (b c d : Word) {j : Nat} (hj : j < 32) :
    (funI b c d).getLsbD j = (c.getLsbD j != (b.getLsbD j || !d.getLsbD j)) := by
  simp only [funI, BitVec.getLsbD_xor, BitVec.getLsbD_or, BitVec.getLsbD_not, hj]
  simp

/-- Settles O43: the range of a round is its group, and the functions bit by bit. -/
theorem roundFunctionsBitByBit : Obligations.RoundFunctionsBitByBit := by
  refine ⟨fun i b c d => ?_, fun b c d j hj =>
    ⟨getLsbD_funF b c d hj, getLsbD_funG b c d hj, getLsbD_funH b c d j, getLsbD_funI b c d hj⟩⟩
  obtain ⟨hf, hg, hh, hi⟩ := groupOf_of_range i
  refine ⟨fun h => ?_, fun h => ?_, fun h => ?_, fun h => ?_⟩
  · rw [hf (by omega)]; rfl
  · rw [hg (by omega)]; rfl
  · rw [hh (by omega)]; rfl
  · rw [hi h]; rfl

/-- Within a group the index of the message word runs through all sixteen words, once each (R105). -/
theorem messageIndex_roundIndex_bijective (grp : Group) :
    Function.Bijective fun pos : BitVec 4 => messageIndex (roundIndex grp pos) := by
  have hinj : ∀ p q : BitVec 4, messageIndex (roundIndex grp p) = messageIndex (roundIndex grp q) → p = q := by
    cases grp <;> decide
  have hsurj : ∀ j : Fin 16, ∃ p : BitVec 4, messageIndex (roundIndex grp p) = j := by
    cases grp <;> decide
  exact ⟨fun p q => hinj p q, hsurj⟩

/-- Settles O44: the message word of each range of rounds, and the sixteen positions of each group. -/
theorem everyGroupReadsEveryMessageWordOnce : Obligations.EveryGroupReadsEveryMessageWordOnce := by
  refine ⟨fun i => ?_, messageIndex_roundIndex_bijective⟩
  obtain ⟨hf, hg, hh, hi⟩ := groupOf_of_range i
  refine ⟨fun h => ?_, fun h => ?_, fun h => ?_, fun h => ?_⟩
  · rw [messageIndex_of_f (hf (by omega))]
    exact Nat.mod_eq_of_lt (by omega)
  · rw [messageIndex_of_g (hg (by omega))]
    rfl
  · rw [messageIndex_of_h (hh (by omega))]
    rfl
  · rw [messageIndex_of_i (hi h)]
    rfl

/-- Settles O45: the 64 rotation amounts are closed facts. -/
theorem rotationAmountsCycleByGroup : Obligations.RotationAmountsCycleByGroup := by
  unfold Obligations.RotationAmountsCycleByGroup
  decide

end Sys2Proof.Machine
end

section
/-! The statements about bytes and words (20_memory.md R51 to R56, 30_encoding.md R81 and R85 to R87, 43_commands.md R158 and R159):
the lanes of a data operand, the padded blocks, the message words and the digest port. -/

namespace Sys2Proof.Machine

/-! ## Little-endian words -/

/-- The bits of a word put together from four bytes (R12). -/
theorem getLsbD_decLE32 (b0 b1 b2 b3 : Byte) {i : Nat} (hi : i < 32) :
    (decLE32 b0 b1 b2 b3).getLsbD i =
      if i < 8 then b0.getLsbD i else if i < 16 then b1.getLsbD (i - 8)
      else if i < 24 then b2.getLsbD (i - 16) else b3.getLsbD (i - 24) := by
  have hge (b : Byte) (k : Nat) (hk : 8 ≤ k) : b.getLsbD k = false := BitVec.getLsbD_of_ge b k hk
  simp only [decLE32, BitVec.getLsbD_or, BitVec.getLsbD_shiftLeft, BitVec.getLsbD_setWidth, hi]
  split_ifs with h8 h16 h24
  · simp [h8, show i < 16 by omega, show i < 24 by omega]
  · simp [h8, h16, show i < 24 by omega, hge b0 i (by omega), show i - 8 < 32 by omega]
  · simp [h8, h16, h24, hge b0 i (by omega), hge b1 (i - 8) (by omega), show i - 16 < 32 by omega]
  · simp [h8, h16, h24, hge b0 i (by omega), hge b1 (i - 8) (by omega), hge b2 (i - 16) (by omega),
      show i - 24 < 32 by omega]

theorem getLsbD_byteAt {w : Nat} (v : BitVec w) (k i : Nat) (hi : i < 8) :
    (byteAt v k).getLsbD i = v.getLsbD (8 * k + i) := by
  rw [byteAt, BitVec.getLsbD_extractLsb', decide_eq_true hi, Bool.true_and]

/-- Four bytes of a value in order are its 32 bits from there on (R12, R53). -/
theorem decLE32_byteAt {w : Nat} (v : BitVec w) (k : Nat) :
    decLE32 (byteAt v k) (byteAt v (k + 1)) (byteAt v (k + 2)) (byteAt v (k + 3)) = v.extractLsb' (8 * k) 32 := by
  ext i hi
  rw [← BitVec.getLsbD_eq_getElem, getLsbD_decLE32 _ _ _ _ hi, BitVec.getElem_extractLsb']
  split_ifs <;> rw [getLsbD_byteAt _ _ _ (by omega)] <;> congr 1 <;> omega

/-- A message word whose four bytes are bytes `k` to `k + 3` of a value (R53). -/
theorem messageWord_of_bytes {w : Nat} {block : List Byte} {v : BitVec w} {j k : Nat}
    (h : ∀ i, i < 4 → block.getD (4 * j + i) 0 = byteAt v (k + i)) : messageWord block j = v.extractLsb' (8 * k) 32 := by
  rw [← decLE32_byteAt, messageWord]
  congr 1
  · exact h 0 (by decide)
  · exact h 1 (by decide)
  · exact h 2 (by decide)
  · exact h 3 (by decide)

/-- Settles O48: the bytes of word `j` of a full chunk are the lanes from `4j` on. -/
theorem fullChunkWordsAreDataLanes : Obligations.FullChunkWordsAreDataLanes := by
  intro data j
  have hj := j.isLt
  rw [get_messageWords, messageWord_of_bytes (v := data) (k := 4 * j)
    fun i hi => getD_chunkBytes (by omega)]
  congr 1
  omega

/-! ## The padded blocks (R158, R159) -/

/-- A chunk, the byte 0x80 and zeros, offset by offset. -/
theorem getD_chunk_and_marker (x : Operand) (n z k : Nat) :
    (chunkBytes x n ++ [0x80#8] ++ zeros z).getD k 0 =
      if k < n then x.extractLsb' (8 * k) 8 else if k = n then 0x80 else 0 := by
  rw [getD_append, getD_append, List.length_append, length_chunkBytes, List.length_singleton, getD_zeros]
  split_ifs with hmarked hchunk heq
  · exact getD_chunkBytes hchunk
  · rw [show k - n = 0 by omega]
    rfl
  · omega
  · omega
  · omega
  · rfl

theorem getD_pad2First (x : Operand) (n k : Nat) :
    (pad2First x n).getD k 0 = if k < n then x.extractLsb' (8 * k) 8 else if k = n then 0x80 else 0 :=
  getD_chunk_and_marker x n (63 - n) k

theorem length_pad2First (x : Operand) {n : Nat} (h : n ≤ 63) : (pad2First x n).length = 64 := by
  simp only [pad2First, List.length_append, length_chunkBytes, List.length_singleton, length_zeros]
  omega

theorem length_pad1 (x : Operand) {n : Nat} (len : Counter) (h : n ≤ 55) : (pad1 x n len).length = 64 := by
  simp only [pad1, List.length_append, length_chunkBytes, List.length_singleton, length_zeros, length_le64]
  omega

theorem length_pad2Second (len : Counter) : (pad2Second len).length = 64 := by
  rw [pad2Second, List.length_append, length_zeros, length_le64]

/-- The single block before its length field. -/
theorem getD_pad1_of_lt (x : Operand) {n k : Nat} (len : Counter) (h : n ≤ 55) (hk : k < 56) :
    (pad1 x n len).getD k 0 = if k < n then x.extractLsb' (8 * k) 8 else if k = n then 0x80 else 0 := by
  rw [pad1, getD_append, if_pos, getD_chunk_and_marker]
  simp only [List.length_append, length_chunkBytes, List.length_singleton, length_zeros]
  omega

/-- The length field of the single block (R55, R158). -/
theorem getD_pad1_length (x : Operand) {n k : Nat} (len : Counter) (h : n ≤ 55) (hk : k < 8) :
    (pad1 x n len).getD (56 + k) 0 = byteAt len k := by
  have hlen : (chunkBytes x n ++ [0x80#8] ++ zeros (55 - n)).length = 56 := by
    simp only [List.length_append, length_chunkBytes, List.length_singleton, length_zeros]
    omega
  rw [pad1, getD_append, hlen, if_neg (by omega), Nat.add_sub_cancel_left, getD_le64 hk]

theorem getD_pad2Second_of_lt (len : Counter) {k : Nat} (hk : k < 56) : (pad2Second len).getD k 0 = 0 := by
  rw [pad2Second, getD_append, length_zeros, if_pos hk, getD_zeros]

/-- The length field of the second block (R55, R159). -/
theorem getD_pad2Second_length (len : Counter) {k : Nat} (hk : k < 8) :
    (pad2Second len).getD (56 + k) 0 = byteAt len k := by
  rw [pad2Second, getD_append, length_zeros, if_neg (by omega), Nat.add_sub_cancel_left, getD_le64 hk]

/-- Settles O49, block by block. -/
theorem paddedBlockLayout : Obligations.PaddedBlockLayout := by
  refine ⟨fun data n len hn => ⟨length_pad1 data len hn, fun k hk => ?_⟩,
    fun data n _ hn => ⟨length_pad2First data hn, fun k _ => getD_pad2First data n k⟩,
    fun len => ⟨length_pad2Second len, fun k hk => ?_⟩⟩
  · by_cases hfield : k < 56
    · rw [getD_pad1_of_lt data len hn hfield, if_pos hfield]
    · obtain ⟨i, rfl⟩ := Nat.exists_eq_add_of_le (Nat.not_lt.1 hfield)
      rw [getD_pad1_length data len hn (by omega), if_neg (by omega), if_neg (by omega), if_neg hfield,
        Nat.add_sub_cancel_left, byteAt]
  · by_cases hfield : k < 56
    · rw [getD_pad2Second_of_lt len hfield, if_pos hfield]
    · obtain ⟨i, rfl⟩ := Nat.exists_eq_add_of_le (Nat.not_lt.1 hfield)
      rw [getD_pad2Second_length len (by omega), if_neg hfield, Nat.add_sub_cancel_left, byteAt]

/-- A block that ends in the length field has L in its last two message words (R53, R55). -/
theorem lengthWords_of_block {block : List Byte} {len : Counter} (h : ∀ k, k < 8 → block.getD (56 + k) 0 = byteAt len k) :
    (messageWords block).get 14 = len.extractLsb' 0 32 ∧ (messageWords block).get 15 = len.extractLsb' 32 32 := by
  rw [get_messageWords, get_messageWords]
  refine ⟨messageWord_of_bytes (k := 0) fun i hi => ?_, messageWord_of_bytes (k := 4) fun i hi => ?_⟩
  · rw [Nat.zero_add]
    exact h i (by omega)
  · have hi' := h (4 + i) (by omega)
    rwa [← Nat.add_assoc] at hi'

/-- Settles O50, for the two blocks that hold a length field. -/
theorem lengthFieldInMessageWords : Obligations.LengthFieldInMessageWords :=
  ⟨fun data _ len hn => lengthWords_of_block fun _ hk => getD_pad1_length data len hn hk,
    fun len => lengthWords_of_block fun _ hk => getD_pad2Second_length len hk⟩

/-! ## The digest port (R56, R81) -/

/-- The bits of the port within word `j` are those of `H[j]` (R81). -/
theorem extractLsb'_port (h : Quad) (j : Fin 4) {p len : Nat} (hp : p + len ≤ 32) :
    (h[3] ++ h[2] ++ h[1] ++ h[0]).extractLsb' (32 * j + p) len = (h.get j).extractLsb' p len := by
  fin_cases j <;> dsimp only
  · rw [BitVec.extractLsb'_append_eq_of_add_le (by omega), Nat.mul_zero, Nat.zero_add]
    rfl
  · rw [BitVec.extractLsb'_append_eq_of_le (by omega), BitVec.extractLsb'_append_eq_of_add_le (by omega),
      Nat.mul_one, Nat.add_sub_cancel_left]
    rfl
  · rw [BitVec.extractLsb'_append_eq_of_le (by omega), BitVec.extractLsb'_append_eq_of_le (by omega),
      BitVec.extractLsb'_append_eq_of_add_le (by omega), show 32 * 2 + p - 32 - 32 = p by omega]
    rfl
  · rw [BitVec.extractLsb'_append_eq_of_le (by omega), BitVec.extractLsb'_append_eq_of_le (by omega),
      BitVec.extractLsb'_append_eq_of_le (by omega), show 32 * 3 + p - 32 - 32 - 32 = p by omega]
    rfl

theorem digestValid_iff (s : State) : digestValid s = true ↔ s.phase = .done ∧ s.busy = false := by
  simp [digestValid]

/-- Byte `4j + k` of the digest is byte `k` of `H[j]` (R56). -/
theorem getD_digestBytes (h : Quad) (j : Fin 4) {k : Nat} (hk : k < 4) :
    (digestBytes h).getD (4 * j + k) 0 = byteAt (h.get j) k := by
  fin_cases j <;> interval_cases k <;> rfl

/-- Byte `m` of the port is byte `m` of the digest (R56, R81). -/
theorem byteAt_digest {s : State} (hv : digestValid s = true) {m : Nat} (hm : m < 16) :
    byteAt (digest s) m = (digestBytes s.h).getD m 0 := by
  have hj : m / 4 < 4 := by omega
  have hbyte := getD_digestBytes s.h ⟨m / 4, hj⟩ (Nat.mod_lt m (by decide))
  rw [Nat.div_add_mod] at hbyte
  rw [hbyte, digest, if_pos hv, byteAt, byteAt, ← extractLsb'_port s.h ⟨m / 4, hj⟩ (by omega)]
  congr 1
  dsimp only
  omega

/-- Settles O52: the port is its four words while DIGEST_VALID = 1, and zero otherwise. -/
theorem digestPortBytes : Obligations.DigestPortBytes := by
  intro s
  refine ⟨fun hdone => ?_, fun hnot => ?_⟩
  · have hv := (digestValid_iff s).2 hdone
    have hport (j : Fin 4) {p len : Nat} (hp : p + len ≤ 32) :
        (digest s).extractLsb' (32 * j + p) len = (s.h.get j).extractLsb' p len := by
      rw [digest, if_pos hv]
      exact extractLsb'_port s.h j hp
    have hword (j : Fin 4) : (digest s).extractLsb' (32 * j) 32 = s.h.get j :=
      (hport j (p := 0) (Nat.le_refl 32)).trans (BitVec.extractLsb'_eq_self)
    refine ⟨hword 0, hword 1, hword 2, hword 3, fun m hm => byteAt_digest hv hm, fun j k hk => ?_⟩
    rw [← hport j (by omega)]
    congr 1
    omega
  · have hv : digestValid s = false := Bool.eq_false_iff.mpr fun h => by
      obtain ⟨hp, hb⟩ := (digestValid_iff s).1 h
      exact hnot.elim (absurd hp) fun hb' => nomatch hb.symm.trans hb'
    rw [digest, hv]
    rfl

/-! ## The assembler's lanes (R51, R87) -/

/-- The first of the bytes fills lane 0, and the others move up by one lane. -/
theorem operandOfBytes_cons (b : Byte) (bytes : List Byte) :
    operandOfBytes (b :: bytes) = (operandOfBytes bytes <<< 8) ||| b.setWidth 512 := rfl

/-- The lanes of an operand put together from bytes (R51). -/
theorem lane_operandOfBytes (bytes : List Byte) {k : Nat} (hk : k < 64) :
    lane (operandOfBytes bytes) k = bytes.getD k 0 := by
  induction bytes generalizing k with
  | nil => simp [lane, byteAt, operandOfBytes]
  | cons b bytes ih =>
    rw [operandOfBytes_cons]
    cases k with
    | zero =>
      ext i hi
      rw [← BitVec.getLsbD_eq_getElem, lane, getLsbD_byteAt _ _ _ hi, BitVec.getLsbD_or, BitVec.getLsbD_shiftLeft,
        BitVec.getLsbD_setWidth]
      simp [show i < 512 by omega, hi, BitVec.getLsbD_eq_getElem]
    | succ k =>
      rw [List.getD_cons_succ, ← ih (by omega)]
      ext i hi
      rw [← BitVec.getLsbD_eq_getElem, ← BitVec.getLsbD_eq_getElem, lane, lane, getLsbD_byteAt _ _ _ hi,
        getLsbD_byteAt _ _ _ hi, BitVec.getLsbD_or, BitVec.getLsbD_shiftLeft, BitVec.getLsbD_setWidth,
        BitVec.getLsbD_of_ge b _ (by omega), show 8 * (k + 1) + i - 8 = 8 * k + i by omega]
      simp
      omega

/-- Settles O7: the words are those of R87, and the lanes those of the bytes. -/
theorem assembledLinesHaveTheirWordsAndLanes : Obligations.AssembledLinesHaveTheirWordsAndLanes := by
  refine ⟨rfl, rfl, fun n bytes hn hlen => ?_, fun n hn => if_pos hn, fun w bytes hlen => ?_⟩
  · exact ⟨_, if_pos ⟨hn, hlen⟩, fun k hk => lane_operandOfBytes bytes hk⟩
  · exact ⟨_, if_pos hlen, fun k hk => lane_operandOfBytes bytes hk⟩

end Sys2Proof.Machine
end

section
/-! The statement about HASH (43_commands.md R163, 30_encoding.md R86): the commands of a message fold the command step of R150, the
padded message folds COMPRESS over its blocks, and both go through the same blocks: the full ones of the message, then the one or
two that hold the rest, the padding and the length. -/

namespace Sys2Proof.Machine

/-! ## Byte strings as blocks -/

/-- The blocks of a byte string compressed in order (R163). -/
def compressBlocks (h : Quad) (p : List Byte) : Quad :=
  (List.range (p.length / 64)).foldl (fun h j => compress h (blockOf p j)) h

/-- The blocks of a string of whole blocks stay in front of what follows it. -/
theorem blockOf_append_left {p q : List Byte} {j : Nat} (h : 64 * (j + 1) ≤ p.length) :
    blockOf (p ++ q) j = blockOf p j := by
  rw [blockOf, blockOf, List.drop_append_of_le_length (by omega), List.take_append_of_le_length (by simp; omega)]

/-- The blocks after a string of `k` blocks are those of what follows it. -/
theorem blockOf_append_right {p q : List Byte} {k : Nat} (hp : p.length = 64 * k) (j : Nat) :
    blockOf (p ++ q) (k + j) = blockOf q j := by
  rw [blockOf, blockOf, Nat.mul_add, ← hp, List.drop_append, List.drop_of_length_le (by omega), List.nil_append, Nat.add_sub_cancel_left]

/-- Compressing goes on where the blocks before have ended. -/
theorem compressBlocks_append (h : Quad) {p q : List Byte} {k : Nat} (hp : p.length = 64 * k) :
    compressBlocks h (p ++ q) = compressBlocks (compressBlocks h p) q := by
  have hcount : (p ++ q).length / 64 = k + q.length / 64 := by
    rw [List.length_append, hp]
    omega
  have hk : p.length / 64 = k := by omega
  have hfirst : (List.range k).foldl (fun h j => compress h (blockOf (p ++ q) j)) h = compressBlocks h p := by
    rw [compressBlocks, hk]
    refine List.foldl_ext _ _ _ fun h j hj => ?_
    have hj' := List.mem_range.1 hj
    rw [blockOf_append_left (by omega)]
  conv_lhs => rw [compressBlocks, hcount, List.range_add, List.foldl_append, hfirst, List.foldl_map]
  simp only [blockOf_append_right hp, compressBlocks]

/-- A string of 64 bytes is one block. -/
theorem compressBlocks_of_length (h : Quad) {p : List Byte} (hp : p.length = 64) : compressBlocks h p = compress h p := by
  have hblock : blockOf p 0 = p := by rw [blockOf, Nat.mul_zero, List.drop_zero, ← hp, List.take_length]
  rw [compressBlocks, hp, show List.range (64 / 64) = [0] from rfl, List.foldl_cons, List.foldl_nil, hblock]

/-- Less than 64 bytes are no block. -/
theorem compressBlocks_of_short (h : Quad) {p : List Byte} (hp : p.length < 64) : compressBlocks h p = h := by
  rw [compressBlocks, Nat.div_eq_of_lt hp]
  rfl

/-! ## A message and its padding (R158, R159; log 18) -/

/-- The bytes of a message after its full blocks. -/
def restOf (m : List Byte) : List Byte := m.drop (64 * (m.length / 64))

theorem length_restOf (m : List Byte) : (restOf m).length = m.length % 64 := by
  rw [restOf, List.length_drop]
  omega

theorem length_fullBlocks (m : List Byte) : (m.take (64 * (m.length / 64))).length = 64 * (m.length / 64) := by
  rw [List.length_take]
  omega

/-- The blocks of a message are its full blocks. -/
theorem compressBlocks_fullBlocks (h : Quad) (m : List Byte) :
    compressBlocks h (m.take (64 * (m.length / 64))) = compressBlocks h m := by
  have hsplit := compressBlocks_append h (q := restOf m) (length_fullBlocks m)
  rw [restOf, List.take_append_drop, ← restOf, compressBlocks_of_short (p := restOf m) _ (by rw [length_restOf]; omega)]
    at hsplit
  exact hsplit.symm

/-- The rest of a message with its padding and length (R158, R159). -/
def paddedRest (m : List Byte) : List Byte :=
  restOf m ++ [0x80#8] ++ zeros ((119 - m.length % 64) % 64) ++ le64 (BitVec.ofNat 64 (8 * m.length))

/-- The chaining state of a message is that of its full blocks, and from there on its padded rest. -/
theorem md5State_eq (m : List Byte) : md5State m = compressBlocks (compressBlocks iv m) (paddedRest m) := by
  have hpadded : paddedMessage m = m.take (64 * (m.length / 64)) ++ paddedRest m := by
    simp only [paddedMessage, paddedRest, restOf, ← List.append_assoc, List.take_append_drop]
  rw [← compressBlocks_fullBlocks iv m, ← compressBlocks_append iv (length_fullBlocks m), ← hpadded]
  rfl

/-! ## The commands of HASH (R86, R87) -/

theorem chunkWord_eq_commandWord {n : Nat} (h : n < 128) : chunkWord n = commandWord (BitVec.ofNat 7 n) 0x2#4 := by
  have hn : (BitVec.ofNat 7 n).setWidth 32 = BitVec.ofNat 32 n := by
    apply BitVec.eq_of_toNat_eq
    simp only [BitVec.toNat_setWidth, BitVec.toNat_ofNat]
    omega
  rw [commandWord_eq_shift, hn]
  rfl

/-- The bytes of a CHUNK line are the chunk that its operand holds (R51, R87). -/
theorem chunkBytes_operandOfBytes {bytes : List Byte} (h : bytes.length ≤ 64) :
    chunkBytes (operandOfBytes bytes) bytes.length = bytes := by
  refine List.ext_getElem (length_chunkBytes _ _) fun k _ hk => ?_
  simp only [chunkBytes, List.getElem_map, List.getElem_range]
  rw [lane_operandOfBytes bytes (by omega), List.getD_eq_getElem _ _ hk]

/-- A CHUNK line in ABSORBING: the carried-out part of the command step (R150). -/
theorem commandStep_chunkWord {s : Arch} {n : Nat} (x : Operand) (hp : s.phase = .absorbing) (hn : n < 128) :
    s.commandStep (chunkWord n) x = s.chunkStep n x := by
  rw [chunkWord_eq_commandWord hn, commandStep_chunk s x (opField_commandWord _ _) (reservedField_commandWord _ _), hp,
    lengthField_commandWord, BitVec.toNat_ofNat, Nat.mod_eq_of_lt (by omega)]

/-- The operand of the terminal CHUNK holds the rest of the message (R86, R87). -/
theorem chunkBytes_restOf (m : List Byte) : chunkBytes (operandOfBytes (restOf m)) (m.length % 64) = restOf m := by
  have hr := length_restOf m
  have hbytes := chunkBytes_operandOfBytes (bytes := restOf m) (by omega)
  rwa [hr] at hbytes

/-- A rest of at most 55 bytes is padded to the block of CHUNK.FINAL1 (R158). -/
theorem paddedRest_of_short {m : List Byte} (h : m.length % 64 ≤ 55) :
    paddedRest m = pad1 (operandOfBytes (restOf m)) (m.length % 64) (BitVec.ofNat 64 (8 * m.length)) := by
  rw [paddedRest, pad1, chunkBytes_restOf, show (119 - m.length % 64) % 64 = 55 - m.length % 64 by omega]

/-- A longer rest is padded to the two blocks of CHUNK.FINAL2 (R159). -/
theorem paddedRest_of_long {m : List Byte} (h : 56 ≤ m.length % 64) :
    paddedRest m = pad2First (operandOfBytes (restOf m)) (m.length % 64)
      ++ pad2Second (BitVec.ofNat 64 (8 * m.length)) := by
  have hzeros : zeros ((119 - m.length % 64) % 64) = zeros (63 - m.length % 64) ++ zeros 56 := by
    rw [zeros, zeros, zeros, ← List.replicate_add, show (119 - m.length % 64) % 64 = 63 - m.length % 64 + 56 by omega]
  rw [paddedRest, pad2First, pad2Second, chunkBytes_restOf, hzeros]
  simp only [List.append_assoc]

/-- The command of a CHUNK line with these bytes (R87). -/
def chunkCommand (bytes : List Byte) : Word × Operand := (chunkWord bytes.length, operandOfBytes bytes)

theorem assemble_chunk {n : Nat} {bytes : List Byte} (hn : n ≤ 64) (hlen : bytes.length = n) :
    assemble (.chunk n bytes) = some (chunkCommand bytes) := by
  subst hlen
  exact if_pos ⟨hn, rfl⟩

theorem length_blockOf {m : List Byte} {j : Nat} (h : j < m.length / 64) : (blockOf m j).length = 64 := by
  rw [blockOf, List.length_take, List.length_drop]
  omega

/-- HASH is INIT, one CHUNK for each full block, and the terminal CHUNK with the rest (R86). -/
theorem hashCommands_eq (m : List Byte) :
    hashCommands m = (0x00000001#32, 0) :: (List.range (m.length / 64)).map (fun j => chunkCommand (blockOf m j))
      ++ [chunkCommand (restOf m)] := by
  have hlast : assemble (.chunk (m.length % 64) (restOf m)) = some (chunkCommand (restOf m)) :=
    assemble_chunk (by omega) (length_restOf m)
  have hfull : (List.range (m.length / 64)).filterMap (fun j => assemble (.chunk 64 (blockOf m j)))
      = (List.range (m.length / 64)).map fun j => chunkCommand (blockOf m j) := by
    rw [← List.filterMap_eq_map]
    exact List.filterMap_congr fun j hj => assemble_chunk (Nat.le_refl 64) (length_blockOf (List.mem_range.1 hj))
  rw [hashCommands, hashLines, List.filterMap_append, List.filterMap_append, List.filterMap_map]
  exact congrArg₂ (fun full last => (0x00000001#32, (0 : Operand)) :: full ++ last) hfull
    (List.filterMap_cons_some hlast)

/-! ## Both ways through the same blocks (R163) -/

/-- After INIT and the first `k` full blocks of a message. -/
def absorbed (m : List Byte) (k : Nat) : Arch :=
  ⟨(List.range k).foldl (fun h j => compress h (blockOf m j)) iv, BitVec.ofNat 64 (512 * k), .absorbing, .noError⟩

/-- A full block in ABSORBING is counted and compressed (R155). -/
theorem commandStep_fullBlock {s : Arch} {b : List Byte} (hp : s.phase = .absorbing) (hb : b.length = 64) :
    s.commandStep (chunkCommand b).1 (chunkCommand b).2 = ⟨compress s.h b, s.len + 512, .absorbing, s.err⟩ := by
  have hbytes := chunkBytes_operandOfBytes (bytes := b) (by omega)
  rw [hb] at hbytes
  rw [chunkCommand, commandStep_chunkWord _ hp (by omega), hb, Arch.chunkStep, if_neg (by omega)]
  dsimp only
  rw [if_pos rfl, hbytes, hp]
  rfl

theorem commandSteps_append (s : Arch) (cs ds : List (Word × Operand)) :
    s.commandSteps (cs ++ ds) = (s.commandSteps cs).commandSteps ds := List.foldl_append

theorem commandSteps_fullBlocks (m : List Byte) {k : Nat} (hk : k ≤ m.length / 64) :
    (absorbed m 0).commandSteps ((List.range k).map fun j => chunkCommand (blockOf m j)) = absorbed m k := by
  induction k with
  | zero => rfl
  | succ k ih =>
    have hlen : BitVec.ofNat 64 (512 * k) + 512 = BitVec.ofNat 64 (512 * (k + 1)) := by
      rw [Nat.mul_succ, BitVec.ofNat_add]
      rfl
    rw [List.range_succ, List.map_append, commandSteps_append, ih (by omega)]
    refine (commandStep_fullBlock (s := absorbed m k) rfl (length_blockOf (m := m) (j := k) hk)).trans ?_
    simp only [absorbed, hlen, List.range_succ, List.foldl_append, List.foldl_cons, List.foldl_nil]

/-- The terminal CHUNK in ABSORBING, after the counter has reached the message's bits: it compresses the padded rest, and DONE is
reached (R156, R157). -/
theorem commandStep_rest {s : Arch} {m : List Byte} (hp : s.phase = .absorbing)
    (hlen : s.len + BitVec.ofNat 64 (8 * (m.length % 64)) = BitVec.ofNat 64 (8 * m.length)) :
    s.commandStep (chunkCommand (restOf m)).1 (chunkCommand (restOf m)).2
      = ⟨compressBlocks s.h (paddedRest m), BitVec.ofNat 64 (8 * m.length), .done, s.err⟩ := by
  have hr := length_restOf m
  rw [chunkCommand, commandStep_chunkWord _ hp (by omega), hr, Arch.chunkStep, if_neg (by omega)]
  dsimp only
  rw [if_neg (by omega), hlen]
  split
  · next hshort =>
    rw [paddedRest_of_short hshort, compressBlocks_of_length _ (length_pad1 _ _ hshort)]
  · next hlong =>
    have hfirst := length_pad2First (operandOfBytes (restOf m)) (n := m.length % 64) (by omega)
    rw [paddedRest_of_long (by omega), compressBlocks_append _ (k := 1) hfirst, compressBlocks_of_length _ hfirst,
      compressBlocks_of_length _ (length_pad2Second _)]

/-- The commands of HASH from any tuple: INIT forgets it, the full blocks and the rest give the chaining state of the message. -/
theorem commandSteps_hashCommands (s : Arch) (m : List Byte) :
    s.commandSteps (hashCommands m) = ⟨md5State m, BitVec.ofNat 64 (8 * m.length), .done, .noError⟩ := by
  have hlen : (absorbed m (m.length / 64)).len + BitVec.ofNat 64 (8 * (m.length % 64)) = BitVec.ofNat 64 (8 * m.length) := by
    rw [absorbed, ← BitVec.ofNat_add, show 512 * (m.length / 64) + 8 * (m.length % 64) = 8 * m.length by omega]
  have hinit : s.commandSteps [(0x00000001#32, 0)] = absorbed m 0 := commandStep_init s 0
  rw [hashCommands_eq, ← List.singleton_append, List.append_assoc, commandSteps_append, hinit, commandSteps_append,
    commandSteps_fullBlocks m (Nat.le_refl _), md5State_eq]
  exact commandStep_rest rfl hlen

/-- Settles O28: the run takes the commands in order, and the port shows the digest bytes of the chaining state. -/
theorem hashGivesTheDigestOfTheMessage : Obligations.HashGivesTheDigestOfTheMessage := by
  intro m s hb hi
  obtain ⟨t, hrun, harch, hbusy, -⟩ := runSteps_hostOf (hashCommands m) s hb hi
  obtain ⟨hh, hlen, hphase, herr⟩ := Arch.mk.inj (harch.trans (commandSteps_hashCommands s.arch m))
  have hv : digestValid t = true := (digestValid_iff t).2 ⟨hphase, hbusy⟩
  refine ⟨t, hrun, hphase, herr, hlen, hh, hv, fun k hk => (byteAt_digest hv hk).trans ?_⟩
  rw [md5, hh]

end Sys2Proof.Machine
end
